-- ==== Sys2Proof/Word.lean ====
section
/-! DEFINITION. Word.lean: the values the block moves, each a bit vector of the width 00_scope.md rule R5 and
20_memory.md rule R24 give it. Bus index `V[i]` is `getLsbD i`; sequence index `V⟨i⟩` is `getMsbD i`
(00_scope.md rule R7). -/
namespace Sys2Proof

/-- A request word `op[3:0] ‖ din[41:0]` (30_encoding.md R30). -/
abbrev RequestWord := BitVec 46

/-- A response word `status[1:0] ‖ dout[41:0]` (30_encoding.md R31). -/
abbrev ResponseWord := BitVec 44

/-- The operation select field (30_encoding.md R30). -/
abbrev Opcode := BitVec 4

/-- The operand bus `din` and the result bus `dout` (20_memory.md R23). -/
abbrev Bus := BitVec 42

/-- The status field of a response (30_encoding.md R31). -/
abbrev StatusCode := BitVec 2

/-- Payload, `PAYLOAD_W` = 16 (00_scope.md R5). -/
abbrev Payload := BitVec 16

/-- CRCRemainder and the register R, `CRC_W` = 8. -/
abbrev Remainder := BitVec 8

/-- Frame = Payload ‖ CRCRemainder, `FRAME_W` = 24. -/
abbrev Frame := BitVec 24

/-- The data bits of one Hamming block, `GROUP_W` = 4. -/
abbrev DataGroup := BitVec 4

/-- A HammingBlock, or a received word of that width, `BLOCK_W` = 7. -/
abbrev Block := BitVec 7

/-- A Codeword = six blocks, `CW_W` = 42. -/
abbrev Codeword := BitVec 42

/-- A Syndrome, `SYN_W` = 3. -/
abbrev Syndrome := BitVec 3

end Sys2Proof
end

