-- ==== Sys2Proof/Syntax.lean ====
section
/-! DEFINITION. Syntax.lean: the nine operations (30_encoding.md rule R33, opcode_table.json). An operation has one operand,
of the width 20_memory.md rule R24 gives; the ignored bits of `din` (rule R35) are no part of it (log entry 13). -/
namespace Sys2Proof

/-- One constructor per row of spec/opcode_table.json. -/
inductive Instr where
  /-- op 0x1, `matvec(Gᵗ, v)`, 4 → 7 (R41). -/
  | mvgt (v : DataGroup)
  /-- op 0x2, `matvec(H, v)`, 7 → 3 (R42). -/
  | mvh (v : Block)
  /-- op 0x3, remainder of a payload, 16 → 8 (R47). -/
  | crc8 (p : Payload)
  /-- op 0x4, payload to frame, 16 → 24 (R48). -/
  | crcenc (p : Payload)
  /-- op 0x5, frame check, 24 → 1 (R49). -/
  | crcvfy (f : Frame)
  /-- op 0x6, Hamming encode, 4 → 7 (R53). -/
  | henc (d : DataGroup)
  /-- op 0x7, Hamming decode, 7 → 4 ‖ 3 (R57). -/
  | hdec (v : Block)
  /-- op 0x8, payload to codeword, 16 → 42 (R62). -/
  | enc16 (p : Payload)
  /-- op 0x9, codeword to payload or error, 42 → 16 (R64). -/
  | dec42 (cw : Codeword)
deriving DecidableEq, Repr

end Sys2Proof
end

