-- ==== Sys2Proof/WellFormed.lean ====
section
/-! DEFINITION. WellFormed.lean: what makes an operation well formed. The width of an operand is fixed by its constructor, so
the only term that can be ill formed is the TEXT of an operand, before it becomes bits: the source makes its length and its
characters "the caller's" to check (60_exceptions.md rules R70 and R72), with the two boundary errors the block never raises. -/
namespace Sys2Proof

/-- The two error kinds "detected at the boundary, not inside the core" (60_exceptions.md R70, R72). -/
inductive BoundaryError where
  /-- The operand text has not exactly k_in characters: raised by the text caller, never by the block; safe. -/
  | invalidLength
  /-- A symbol other than '0' or '1': raised by the text caller, never by the block; safe. -/
  | invalidCharacter
deriving DecidableEq, Repr

/-- The operand width k_in (20_memory.md R24). -/
def Instr.operandWidth : Instr → Nat
  | .mvgt _ => 4
  | .mvh _ => 7
  | .crc8 _ => 16
  | .crcenc _ => 16
  | .crcvfy _ => 24
  | .henc _ => 4
  | .hdec _ => 7
  | .enc16 _ => 16
  | .dec42 _ => 42

/-- The result width k_out (20_memory.md R24); DEC42 has that result only when it answers `Ok`. -/
def Instr.resultWidth : Instr → Nat
  | .mvgt _ => 7
  | .mvh _ => 3
  | .crc8 _ => 8
  | .crcenc _ => 24
  | .crcvfy _ => 1
  | .henc _ => 7
  | .hdec _ => 7
  | .enc16 _ => 42
  | .dec42 _ => 16

/-- The operand read as an unsigned integer (00_scope.md R7). -/
def Instr.operandValue : Instr → Nat
  | .mvgt v => v.toNat
  | .mvh v => v.toNat
  | .crc8 p => p.toNat
  | .crcenc p => p.toNat
  | .crcvfy f => f.toNat
  | .henc d => d.toNat
  | .hdec v => v.toNat
  | .enc16 p => p.toNat
  | .dec42 cw => cw.toNat

/-- The operand fits its field and its field fits `din`; true of every `Instr`, by its type. -/
def Instr.wellFormed (i : Instr) : Bool :=
  decide (i.operandValue < 2 ^ i.operandWidth) && decide (i.operandWidth ≤ 42)

/-- A character of an operand's text form (30_encoding.md R37). -/
def binaryDigit (c : Char) : Bool := c == '0' || c == '1'

/-- The caller's check of an operand text of width k: exact length, binary symbols. Which error is named when both fail is a
DESIGN CHOICE (log entry 15; safe: no rule reads it). -/
def operandTextError (k : Nat) (text : List Char) : Option BoundaryError :=
  if text.length ≠ k then some .invalidLength
  else if text.all binaryDigit then none
  else some .invalidCharacter

end Sys2Proof
end

