-- ==== Sys2Proof/Decode.lean ====
section
/-! DEFINITION. Decode.lean: the request format, the decoder (total on all 2^46 request words, a reserved `op` rejected by
name) and the encoder (30_encoding.md rules R30 to R36). -/
namespace Sys2Proof

/-- Why a request word selects no operation. -/
inductive DecodeReject where
  /-- `op` is 0x0 or 0xA to 0xF (30_encoding.md R34); the machine answers it `Err(IllegalOp)`. -/
  | reservedOp (op : Opcode)
deriving DecidableEq, Repr

/-- `req[45:42]` (30_encoding.md R30). -/
def opField (w : RequestWord) : Opcode := w.extractLsb' 42 4

/-- `req[41:0]` (30_encoding.md R30). -/
def dinField (w : RequestWord) : Bus := w.extractLsb' 0 42

/-- `op ‖ din` (30_encoding.md R30). -/
def requestWord (op : Opcode) (din : Bus) : RequestWord := op ++ din

/-- `din[k-1:0]`: the bits above the operand are ignored (20_memory.md R23, 30_encoding.md R32 and R35). -/
def operandField (k : Nat) (din : Bus) : BitVec k := din.extractLsb' 0 k

/-- The decoder: it "reads `op` and nothing else" (30_encoding.md R33, R34). -/
def decode (w : RequestWord) : Except DecodeReject Instr :=
  match (opField w).toNat with
  | 0x1 => .ok (.mvgt (operandField 4 (dinField w)))
  | 0x2 => .ok (.mvh (operandField 7 (dinField w)))
  | 0x3 => .ok (.crc8 (operandField 16 (dinField w)))
  | 0x4 => .ok (.crcenc (operandField 16 (dinField w)))
  | 0x5 => .ok (.crcvfy (operandField 24 (dinField w)))
  | 0x6 => .ok (.henc (operandField 4 (dinField w)))
  | 0x7 => .ok (.hdec (operandField 7 (dinField w)))
  | 0x8 => .ok (.enc16 (operandField 16 (dinField w)))
  | 0x9 => .ok (.dec42 (operandField 42 (dinField w)))
  | _ => .error (.reservedOp (opField w))

/-- The opcode map (30_encoding.md R33). -/
def Instr.opcode : Instr → Opcode
  | .mvgt _ => 0x1#4
  | .mvh _ => 0x2#4
  | .crc8 _ => 0x3#4
  | .crcenc _ => 0x4#4
  | .crcvfy _ => 0x5#4
  | .henc _ => 0x6#4
  | .hdec _ => 0x7#4
  | .enc16 _ => 0x8#4
  | .dec42 _ => 0x9#4

/-- The operand right-aligned on `din` (20_memory.md R23); zeros in the ignored bits are a DESIGN CHOICE (log entry 13). -/
def Instr.din : Instr → Bus
  | .mvgt v => v.setWidth 42
  | .mvh v => v.setWidth 42
  | .crc8 p => p.setWidth 42
  | .crcenc p => p.setWidth 42
  | .crcvfy f => f.setWidth 42
  | .henc d => d.setWidth 42
  | .hdec v => v.setWidth 42
  | .enc16 p => p.setWidth 42
  | .dec42 cw => cw

/-- The request word of an operation. -/
def encode (i : Instr) : RequestWord := requestWord i.opcode i.din

/-- The request word that opcode_table.json's numbering gives: bit 0 the least significant bit of the one 46-bit word; bits at
and above `nbits` are 0, and the bus has no wire above bit 45 (log entry 12). -/
def tableWord (nbits w : Nat) : RequestWord := BitVec.ofNat 46 (w % 2 ^ nbits)

/-- What the decoder reads from a table word; none where it refuses. -/
def decodeTableWord (nbits w : Nat) : Option Instr :=
  match decode (tableWord nbits w) with
  | .ok i => some i
  | .error _ => none

end Sys2Proof
end

