-- ==== Sys2Proof/Config.lean ====
section
/-! DEFINITION. Config.lean: what is fixed for the machine. The constant tables of 10_state.md rules R11 to R13 are
hardwired (assumption log entry 14); `latency` and `otherInstances` are the two parameters the spec leaves open
(00_scope.md rule R6): opaque, so no proof can use a value of them. -/
namespace Sys2Proof.Config

/-- Generator matrix, one row per data bit, leftmost digit column 0 (10_state.md R11). -/
def G : List (BitVec 7) :=
  [0b1000101#7,
   0b0100110#7,
   0b0010111#7,
   0b0001011#7]

/-- Parity-check matrix, one row per syndrome bit, leftmost digit column 0 (10_state.md R12). -/
def H : List (BitVec 7) :=
  [0b1110100#7,
   0b0111010#7,
   0b1011001#7]

/-- CRC generator polynomial x⁸+x²+x+1, bit 8 the x⁸ coefficient (10_state.md R13). -/
def poly : BitVec 9 := 0b100000111#9

/-- `POLY_LOW`, the "low byte of generator" (10_state.md R13). -/
def polyLow : Remainder := poly.extractLsb' 0 8

/-- `CRC_INIT`, the value of R at the start of every CRC run (00_scope.md R5). -/
def crcInit : Remainder := 0x00#8

/-- `LATENCY(op)`: the time from request to response, open, read by no rule (70_reset_and_hazards.md R84, D15; log entry 10). -/
opaque latency (op : Opcode) : Nat

/-- How many block instances stand beside the first one, open (00_scope.md R6, D21; log entry 9). -/
opaque otherInstances : Nat

/-- `N_INSTANCES`, at least 1 (20_memory.md R27). -/
def nInstances : Nat := otherInstances + 1

end Sys2Proof.Config
end

