-- ==== Sys2Proof/Machine/State.lean ====
section
/-! DEFINITION. Machine/State.lean: the state of one block instance, its reset value, the results an operation can have, and
the reasons a move can stop. The block holds almost no state (10_state.md rules R10 to R19): the CRC shift register R and
what stands on its two ports. -/
namespace Sys2Proof.Machine

/-- The error kinds a response can report (60_exceptions.md R70). -/
inductive ErrorKind where
  /-- DEC42's final CRC check failed (60_exceptions.md R71). -/
  | uncorrectableError
  /-- `op` selects no operation (60_exceptions.md R73). -/
  | illegalOp
deriving DecidableEq, Repr

/-- What an operation returns: a value of its result width, or an error kind and no value (00_scope.md R9). -/
inductive Result (k : Nat) where
  | ok (v : BitVec k)
  | err (e : ErrorKind)
deriving DecidableEq, Repr

/-- Why a move of the machine stops. No step and no instruction raises one: all 2^46 request words have a defined response
(30_encoding.md R35). -/
inductive Fault where
  /-- The host presented a request to an instance that has not answered the previous one: raised by `present`, a move of the
  host, never by `step`. The spec gives it no move (70_reset_and_hazards.md R83, 92_eei_decisions.md D16). Safe: the model stops
  where an implementation might do something (log entry 7). -/
  | requestWhileBusy
deriving DecidableEq, Repr

/-- Why an instruction has no meaning. -/
inductive Refusal where
  /-- An instruction whose arm of `exec` has no meaning yet; raised by `exec` only, and by no arm of this model. Safe. -/
  | notModelled (mnemonic : String)
deriving DecidableEq, Repr

/-- One block instance, between two operations. -/
structure State where
  /-- The CRC shift register R (10_state.md R14): written by every CRC run, unobservable at the interface. -/
  crcR : Remainder
  /-- The request accepted and not yet answered; none when the instance is idle (70_reset_and_hazards.md R83). -/
  req : Option RequestWord
  /-- The response delivered last; none before the first (30_encoding.md R31; log entry 3). -/
  resp : Option ResponseWord
deriving DecidableEq, Repr

/-- 70_reset_and_hazards.md R80: R = 0x00, no operation in progress, no response pending. -/
def State.reset : State where
  crcR := 0x00#8
  req := none
  resp := none

end Sys2Proof.Machine
end

