-- ==== Sys2Proof/Machine/Operands.lean ====
section
/-! DEFINITION. Machine/Operands.lean: the sequence index `V⟨i⟩` (00_scope.md rule R7, 20_memory.md rule R21), and the one
operand form and one result form of the block (20_memory.md rule R23, 30_encoding.md rule R32). -/
namespace Sys2Proof.Machine

/-- The vector of width m whose sequence element i is `f i`: `f 0` is its most significant bit. -/
def ofSeq : (m : Nat) → (Nat → Bool) → BitVec m
  | 0, _ => 0#0
  | m + 1, f => BitVec.cons (f 0) (ofSeq m fun i => f (i + 1))

/-- The bits of v in sequence order, `v⟨0⟩` first (20_memory.md R21). -/
def seqBits {k : Nat} (v : BitVec k) : List Bool := (List.range k).map v.getMsbD

/-- `v⟨i .. i+len-1⟩` (00_scope.md R7). -/
def seqSlice {k : Nat} (v : BitVec k) (i len : Nat) : BitVec len := v.extractLsb' (k - i - len) len

/-- The vector of width k with a single 1, at sequence index j (40_gf2_matvec.md R43 (c)). -/
def unitAt (k j : Nat) : BitVec k := ofSeq k fun i => i == j

/-- `zext_42(v)`: a result right-aligned on the bus, zero above its width (20_memory.md R23). -/
def onBus {k : Nat} (v : BitVec k) : Bus := v.setWidth 42

/-- `resp[43:42]` (30_encoding.md R31). -/
def statusField (w : ResponseWord) : StatusCode := w.extractLsb' 42 2

/-- `resp[41:0]` (30_encoding.md R31). -/
def doutField (w : ResponseWord) : Bus := w.extractLsb' 0 42

end Sys2Proof.Machine
end

