-- ==== Sys2Proof/Machine/Flags.lean ====
section
/-! DEFINITION. Machine/Flags.lean: the block has no flags (10_state.md rule R17). The three results "with the flavour of a
flag" are parts of one response: its status, CRCVFY's boolean and HDEC's syndrome; and the response word built of them
(30_encoding.md rule R31). -/
namespace Sys2Proof.Machine

/-- The status code of a result (30_encoding.md R31, 60_exceptions.md R70); 3 is never produced. -/
def statusOf {k : Nat} : Result k → StatusCode
  | .ok _ => 0#2
  | .err .uncorrectableError => 1#2
  | .err .illegalOp => 2#2

/-- `dout`: the result on the bus; all zero when the status is not `Ok` (60_exceptions.md R76). -/
def doutOf {k : Nat} : Result k → Bus
  | .ok v => onBus v
  | .err _ => 0#42

/-- The response word `status ‖ dout` of a result (30_encoding.md R31, R32). -/
def response {k : Nat} (r : Result k) : ResponseWord := statusOf r ++ doutOf r

/-- A boolean as a 1-bit result: 1 for true (30_encoding.md R32, D12). -/
def boolResult (b : Bool) : BitVec 1 := BitVec.ofBool b

end Sys2Proof.Machine
end

