-- ==== Sys2Proof/Machine/Ops.lean ====
section
/-! DEFINITION. Machine/Ops.lean: the operations the instructions share: the matrix-vector product (40_gf2_matvec.md rule R40),
the CRC engine over the register R (41_crc8.md rules R45 and R46), and what happens at the two ports: a request is taken, a
result or an error is answered. -/
namespace Sys2Proof.Machine

/-- `XOR_{c=0}^{n-1} t(c)` (00_scope.md R8). -/
def xorSum : Nat → (Nat → Bool) → Bool
  | 0, _ => false
  | n + 1, t => xorSum n t ^^ t n

/-- A matrix over GF(2) as its entries `M[row][col]`, both in sequence index. -/
abbrev Matrix := Nat → Nat → Bool

/-- The entries of a table of rows, leftmost digit column 0 (10_state.md R11, R12). -/
def ofRows {n : Nat} (rows : List (BitVec n)) : Matrix := fun r c => (rows.getD r 0).getMsbD c

/-- `Gᵗ[j][i] = G[i][j]` (10_state.md R11). -/
def matGt : Matrix := fun j i => ofRows Config.G i j

/-- The parity-check matrix (10_state.md R12). -/
def matH : Matrix := ofRows Config.H

/-- `matvec(M, v)⟨r⟩ = XOR_c ( M[r][c] & v⟨c⟩ )` for an m×n matrix (40_gf2_matvec.md R40). -/
def matvec (m n : Nat) (M : Matrix) (v : BitVec n) : BitVec m :=
  ofSeq m fun r => xorSum n fun c => M r c && v.getMsbD c

/-- One step of the engine: feedback `R[7] ^ b`, 8-bit shift, `POLY_LOW` if the feedback is 1 (41_crc8.md R45; 90_conflicts.md C2). -/
def crcStep (R : Remainder) (b : Bool) : Remainder :=
  let fb := R.getLsbD 7 ^^ b
  let S : Remainder := R.extractLsb' 0 7 ++ 0#1
  if fb then S ^^^ Config.polyLow else S

/-- The value a run over v returns: from `CRC_INIT`, the bits of v MSB first (41_crc8.md R46). -/
def crcRun {n : Nat} (v : BitVec n) : Remainder := (seqBits v).foldl crcStep Config.crcInit

/-- `R <- CRC_INIT`, at the start of every run (10_state.md R14). -/
def loadCrc (s : State) : State := { s with crcR := Config.crcInit }

/-- `R <- crc_step(R, b)` (41_crc8.md R45). -/
def shiftCrc (s : State) (b : Bool) : State := { s with crcR := crcStep s.crcR b }

/-- One run of the engine over v, in the register: load, then one shift per input bit; its result stands in R at the end
(41_crc8.md R46, 10_state.md R14). -/
def runCrc {n : Nat} (v : BitVec n) (s : State) : State := (seqBits v).foldl shiftCrc (loadCrc s)

/-- The block samples `op` and `din` once, as a whole (20_memory.md R24): the request leaves the port. -/
def accept (s : State) : State := { s with req := none }

/-- The response is delivered, as a whole (20_memory.md R24). -/
def deliver (r : ResponseWord) (s : State) : State := { s with resp := some r }

/-- An operation ends with its response. -/
def answer {k : Nat} (r : Result k) (s : State) : Host.Outcome State Fault Refusal := .next (deliver (response r) s)

/-- Reporting an error: the response carries the status, `dout` = 0, nothing is saved and control goes nowhere
(60_exceptions.md R76). There is nothing to return from (R77). -/
def raise (e : ErrorKind) (s : State) : Host.Outcome State Fault Refusal := answer (Result.err e : Result 0) s

/-- A request whose `op` is reserved: `Err(IllegalOp)` whatever the operand (30_encoding.md R34, 60_exceptions.md R73; log entry 6). -/
def rejectOp (s : State) : Host.Outcome State Fault Refusal := raise .illegalOp s

/-- No request: nothing happens "except in answer to a call" (60_exceptions.md R74; log entry 4). -/
def idle (s : State) : Host.Outcome State Fault Refusal := .next s

end Sys2Proof.Machine
end

