-- ==== Sys2Proof/Machine/Hamming.lean ====
section
/-! DEFINITION. Machine/Hamming.lean: the Hamming(7,4) encoder and syndrome decoder, HENC and HDEC (42_hamming74.md rules R53
to R57). The error position is derived from the columns of H, not read from a table (rule R56). -/
namespace Sys2Proof.Machine

/-- `encode(data)` = `matvec(Gᵗ, data)` (42_hamming74.md R53). -/
def hammingEncode (d : DataGroup) : Block := matvec 7 4 matGt d

/-- `syndrome` = `matvec(H, received)` (42_hamming74.md R55). -/
def syndrome (v : Block) : Syndrome := matvec 3 7 matH v

/-- Column j of H, read top to bottom (10_state.md R12). -/
def columnH (j : Nat) : Syndrome := ofSeq 3 fun r => matH r j

/-- The error position of a syndrome: none for zero, else "the column index j of H whose column vector equals the syndrome"
(42_hamming74.md R56). -/
def errorPosition (y : Syndrome) : Option Nat :=
  if y = 0#3 then none else (List.range 7).find? fun j => columnH j == y

/-- The corrected word: the bit at the error position inverted (42_hamming74.md R57). -/
def correct (v : Block) : Block :=
  match errorPosition (syndrome v) with
  | none => v
  | some j => v ^^^ unitAt 7 j

/-- "bits 0–3 of the corrected 7-bit word" (42_hamming74.md R57). -/
def hammingData (v : Block) : DataGroup := seqSlice (correct v) 0 4

/-- `decode(received) -> (corrected_data, syndrome)`; the syndrome is that of the word before correction (42_hamming74.md R57). -/
def hammingDecode (v : Block) : DataGroup × Syndrome := (hammingData v, syndrome v)

/-- HENC: `Ok(matvec(Gᵗ, d))` (42_hamming74.md R53). -/
def execHenc (d : DataGroup) (s : State) : Host.Outcome State Fault Refusal :=
  answer (.ok (hammingEncode d)) s

/-- HDEC: `Ok(corrected_data ‖ syndrome)`, never an error (42_hamming74.md R57, 30_encoding.md R32). -/
def execHdec (v : Block) (s : State) : Host.Outcome State Fault Refusal :=
  answer (.ok ((hammingDecode v).1 ++ (hammingDecode v).2 : BitVec 7)) s

end Sys2Proof.Machine
end

