-- ==== Sys2Proof/Machine/Composer.lean ====
section
/-! DEFINITION. Machine/Composer.lean: the frame partitioner, the block concatenator, ENC16 and DEC42 (43_composer.md rules R61
to R64). No interleaving (rule R65): six blocks end to end, in group order. -/
namespace Sys2Proof.Machine

/-- `group_k = f⟨4k .. 4k+3⟩` (43_composer.md R61). -/
def frameGroup (f : Frame) (k : Nat) : DataGroup := seqSlice f (4 * k) 4

/-- `block_k = cw⟨7k .. 7k+6⟩` (43_composer.md R63). -/
def cwBlock (cw : Codeword) (k : Nat) : Block := seqSlice cw (7 * k) 7

/-- `group_0 ‖ group_1 ‖ … ‖ group_5` (43_composer.md R61). -/
def concatGroups (g : Nat → DataGroup) : Frame := g 0 ++ g 1 ++ g 2 ++ g 3 ++ g 4 ++ g 5

/-- `block_0 ‖ block_1 ‖ … ‖ block_5` (43_composer.md R63). -/
def concatBlocks (b : Nat → Block) : Codeword := b 0 ++ b 1 ++ b 2 ++ b 3 ++ b 4 ++ b 5

/-- Steps 2 and 3 of `encode16`: each group Hamming-encoded, the blocks concatenated (43_composer.md R62). -/
def encodeFrame (f : Frame) : Codeword := concatBlocks fun k => hammingEncode (frameGroup f k)

/-- Steps 1 and 2 of `decode42`: each block decoded, its syndrome dropped, the data reassembled (43_composer.md R64, R68). -/
def reassemble (cw : Codeword) : Frame := concatGroups fun k => (hammingDecode (cwBlock cw k)).1

/-- The payload of a frame, `f⟨0..15⟩` (43_composer.md R61). -/
def framePayload (f : Frame) : Payload := seqSlice f 0 16

/-- Step 3 of `decode42`: the CRC gate, given the final R of the run over the frame (43_composer.md R64). -/
def crcGate (f : Frame) (r : Remainder) : Result 16 :=
  if r = 0x00#8 then .ok (framePayload f) else .err .uncorrectableError

/-- ENC16 (43_composer.md R62). -/
def execEnc16 (p : Payload) (s : State) : Host.Outcome State Fault Refusal :=
  let s := runCrc p s
  answer (.ok (encodeFrame (p ++ s.crcR))) s

/-- DEC42: the check comes after all six blocks; on failure the response carries no bit of the frame (43_composer.md R64). -/
def execDec42 (cw : Codeword) (s : State) : Host.Outcome State Fault Refusal :=
  let f := reassemble cw
  let s := runCrc f s
  answer (crcGate f s.crcR) s

end Sys2Proof.Machine
end

