-- ==== Sys2Proof/Machine/Crc.lean ====
section
/-! DEFINITION. Machine/Crc.lean: CRC8, CRCENC and CRCVFY (41_crc8.md rules R47 to R49). Each is one run of the engine, which
leaves its remainder in R. -/
namespace Sys2Proof.Machine

/-- CRC8: `Ok(crc_run(p))`, 16 steps (41_crc8.md R47). -/
def execCrc8 (p : Payload) (s : State) : Host.Outcome State Fault Refusal :=
  let s := runCrc p s
  answer (.ok s.crcR) s

/-- CRCENC: `Ok(p ‖ crc_run(p))` (41_crc8.md R48). -/
def execCrcenc (p : Payload) (s : State) : Host.Outcome State Fault Refusal :=
  let s := runCrc p s
  answer (.ok (p ++ s.crcR)) s

/-- CRCVFY: `Ok(crc_run(f) = 0x00)`, 24 steps; an invalid frame is a value, not an error (41_crc8.md R49). -/
def execCrcvfy (f : Frame) (s : State) : Host.Outcome State Fault Refusal :=
  let s := runCrc f s
  answer (.ok (boolResult (s.crcR == 0x00#8))) s

end Sys2Proof.Machine
end

