-- ==== Sys2Proof/Machine/Matvec.lean ====
section
/-! DEFINITION. Machine/Matvec.lean: MVGT and MVH (40_gf2_matvec.md rules R41 and R42). -/
namespace Sys2Proof.Machine

/-- MVGT: `Ok(matvec(Gᵗ, v))`, 7×4 (40_gf2_matvec.md R41). -/
def execMvgt (v : DataGroup) (s : State) : Host.Outcome State Fault Refusal :=
  answer (.ok (matvec 7 4 matGt v)) s

/-- MVH: `Ok(matvec(H, v))`, 3×7 (40_gf2_matvec.md R42). -/
def execMvh (v : Block) (s : State) : Host.Outcome State Fault Refusal :=
  answer (.ok (matvec 3 7 matH v)) s

end Sys2Proof.Machine
end

