-- ==== Sys2Proof/Machine/Dispatch.lean ====
section
/-! DEFINITION. Machine/Dispatch.lean: one arm per operation. -/
namespace Sys2Proof.Machine

def exec (i : Instr) (s : State) : Host.Outcome State Fault Refusal :=
  match i with
  | .mvgt v => Sys2Proof.Machine.execMvgt v s
  | .mvh v => Sys2Proof.Machine.execMvh v s
  | .crc8 p => Sys2Proof.Machine.execCrc8 p s
  | .crcenc p => Sys2Proof.Machine.execCrcenc p s
  | .crcvfy f => Sys2Proof.Machine.execCrcvfy f s
  | .henc d => Sys2Proof.Machine.execHenc d s
  | .hdec v => Sys2Proof.Machine.execHdec v s
  | .enc16 p => Sys2Proof.Machine.execEnc16 p s
  | .dec42 cw => Sys2Proof.Machine.execDec42 cw s

end Sys2Proof.Machine
end

