-- ==== Sys2Proof/Machine/Step.lean ====
section
/-! DEFINITION. Machine/Step.lean: one step is one transaction, one request and its response (92_eei_decisions.md D1, 20_memory.md
rule R24; log entry 1). There is no program counter and nothing is fetched (10_state.md rule R16): what a step runs is the
request the host has presented. -/
namespace Sys2Proof.Machine

def step (s : State) : Host.Outcome State Fault Refusal :=
  match s.req with
  | none => idle s
  | some w =>
    match decode w with
    | .ok i => exec i (accept s)
    | .error (.reservedOp _) => rejectOp (accept s)

/-- The host presents the table word `w` (log entries 2 and 12); nothing else changes. -/
def State.withFetchWord (s : State) (nbits w : Nat) : State :=
  { s with req := some (tableWord nbits w) }

end Sys2Proof.Machine
end

