-- ==== Sys2Proof/Machine/HostPort.lean ====
section
/-! DEFINITION. Machine/HostPort.lean: the moves of the host (70_reset_and_hazards.md rules R80, R83 and R86). Reading a response
is no move: it "changes nothing" (20_memory.md rule R24), the host reads `State.resp`. -/
namespace Sys2Proof.Machine

/-- The host presents a request. An instance accepts one "only when it is idle" (70_reset_and_hazards.md R83); on a busy one the
spec gives no move (92_eei_decisions.md D16; log entry 7). Any of the 2^46 words may be presented (R86). -/
def present (w : RequestWord) (s : State) : Host.Outcome State Fault Refusal :=
  match s.req with
  | none => .next { s with req := some w }
  | some _ => .fault .requestWhileBusy

/-- Reset: every field at its reset value; a request not yet answered is abandoned "without a response"
(70_reset_and_hazards.md R80; log entry 8). -/
def resetEvent (_ : State) : State := State.reset

end Sys2Proof.Machine
end

