-- ==== Sys2Proof/Machine/Instances.lean ====
section
/-! DEFINITION. Machine/Instances.lean: several instances (20_memory.md rule R27). They "share nothing but the read-only
constants", so a bank is the instances' states side by side and a move is a move of one of them; which one moves next is the
host's choice, the argument of the move (log entry 9). -/
namespace Sys2Proof.Machine

/-- The states of n instances. -/
abbrev Bank (n : Nat) := Vector State n

/-- All instances after reset; their number is the open parameter `N_INSTANCES` (00_scope.md R6). -/
def Bank.reset : Bank Config.nInstances := Vector.replicate Config.nInstances State.reset

/-- A move of instance k, the others as they are. -/
def Bank.moveAt {n : Nat} (k : Fin n) (move : State → Host.Outcome State Fault Refusal) (b : Bank n) :
    Host.Outcome (Bank n) Fault Refusal :=
  match move b[k] with
  | .next s => .next (b.set k s)
  | .fault f => .fault f
  | .refused r => .refused r

/-- Instance k serves the request it holds, if any. -/
def Bank.stepAt {n : Nat} (k : Fin n) (b : Bank n) : Host.Outcome (Bank n) Fault Refusal := b.moveAt k step

/-- The host presents a request to instance k. -/
def Bank.presentAt {n : Nat} (k : Fin n) (w : RequestWord) (b : Bank n) : Host.Outcome (Bank n) Fault Refusal :=
  b.moveAt k (present w)

/-- The host resets instance k. -/
def Bank.resetAt {n : Nat} (k : Fin n) (b : Bank n) : Bank n := b.set k (resetEvent b[k])

end Sys2Proof.Machine
end

