-- ==== Sys2Proof/Machine/Text.lean ====
section
/-! DEFINITION. Machine/Text.lean: the text form of operands, requests and responses (30_encoding.md rules R32 and R37,
92_eei_decisions.md D22). No step reads it: the text front end belongs to the host (00_scope.md rule R4 (a)), which raises the
boundary errors before any request is made (60_exceptions.md rule R72; log entry 15). -/
namespace Sys2Proof.Machine

/-- A bit as a character (30_encoding.md R37). -/
def bitChar (b : Bool) : Char := if b then '1' else '0'

/-- A value of width k as exactly k characters, character i being `⟨i⟩` (30_encoding.md R32). -/
def bitsText {k : Nat} (v : BitVec k) : List Char := (seqBits v).map bitChar

/-- An operand written as a bit string, after the caller's check (60_exceptions.md R72). -/
def parseBits (k : Nat) (text : List Char) : Except BoundaryError (BitVec k) :=
  match operandTextError k text with
  | some e => .error e
  | none => .ok (ofSeq k fun i => text.getD i '0' == '1')

/-- The value of a hexadecimal digit; that only 0 to 9 and A to F are digits is a DESIGN CHOICE (log entry 15). -/
def hexDigit (c : Char) : Option Nat :=
  if '0'.toNat ≤ c.toNat ∧ c.toNat ≤ '9'.toNat then some (c.toNat - '0'.toNat)
  else if 'A'.toNat ≤ c.toNat ∧ c.toNat ≤ 'F'.toNat then some (c.toNat - 'A'.toNat + 10)
  else none

/-- The value of a string of hexadecimal digits, most significant first, on top of `acc`. -/
def hexValue : List Char → Nat → Option Nat
  | [], acc => some acc
  | c :: cs, acc =>
    match hexDigit c with
    | none => none
    | some d => hexValue cs (16 * acc + d)

/-- An operand written in hexadecimal (30_encoding.md R37). The spec names no error for this form; the model's are a DESIGN CHOICE
(log entry 15): `invalidCharacter` for a symbol that is no hexadecimal digit, whatever the number of digits, else `invalidLength` for a
value that does not fit k bits. Safe for the block, which never sees text. -/
def parseHex (k : Nat) (digits : List Char) : Except BoundaryError (BitVec k) :=
  match hexValue digits 0 with
  | none => .error .invalidCharacter
  | some n => if n < 2 ^ k then .ok (BitVec.ofNat k n) else .error .invalidLength

/-- An operand: `0x` and a hexadecimal value, or a bit string of exactly k characters (30_encoding.md R37). That `0x` with no digit
after it is read as a bit string is a DESIGN CHOICE (log entry 15). -/
def parseOperand (k : Nat) : List Char → Except BoundaryError (BitVec k)
  | '0' :: 'x' :: d :: ds => parseHex k (d :: ds)
  | text => parseBits k text

/-- The mnemonic of an operation (30_encoding.md R33). -/
def mnemonicText : Instr → List Char
  | .mvgt _ => ['M', 'V', 'G', 'T']
  | .mvh _ => ['M', 'V', 'H']
  | .crc8 _ => ['C', 'R', 'C', '8']
  | .crcenc _ => ['C', 'R', 'C', 'E', 'N', 'C']
  | .crcvfy _ => ['C', 'R', 'C', 'V', 'F', 'Y']
  | .henc _ => ['H', 'E', 'N', 'C']
  | .hdec _ => ['H', 'D', 'E', 'C']
  | .enc16 _ => ['E', 'N', 'C', '1', '6']
  | .dec42 _ => ['D', 'E', 'C', '4', '2']

/-- The operand of an operation as a bit string. -/
def operandText : Instr → List Char
  | .mvgt v => bitsText v
  | .mvh v => bitsText v
  | .crc8 p => bitsText p
  | .crcenc p => bitsText p
  | .crcvfy f => bitsText f
  | .henc d => bitsText d
  | .hdec v => bitsText v
  | .enc16 p => bitsText p
  | .dec42 cw => bitsText cw

/-- A request as one line: the mnemonic, a space, the operand (30_encoding.md R37). -/
def requestText (i : Instr) : List Char := mnemonicText i ++ ' ' :: operandText i

/-- A request from its two words; none when the first is no mnemonic. -/
def parseWords (name operand : List Char) : Option (Except BoundaryError Instr) :=
  match name with
  | ['M', 'V', 'G', 'T'] => some ((parseOperand 4 operand).map Instr.mvgt)
  | ['M', 'V', 'H'] => some ((parseOperand 7 operand).map Instr.mvh)
  | ['C', 'R', 'C', '8'] => some ((parseOperand 16 operand).map Instr.crc8)
  | ['C', 'R', 'C', 'E', 'N', 'C'] => some ((parseOperand 16 operand).map Instr.crcenc)
  | ['C', 'R', 'C', 'V', 'F', 'Y'] => some ((parseOperand 24 operand).map Instr.crcvfy)
  | ['H', 'E', 'N', 'C'] => some ((parseOperand 4 operand).map Instr.henc)
  | ['H', 'D', 'E', 'C'] => some ((parseOperand 7 operand).map Instr.hdec)
  | ['E', 'N', 'C', '1', '6'] => some ((parseOperand 16 operand).map Instr.enc16)
  | ['D', 'E', 'C', '4', '2'] => some ((parseOperand 42 operand).map Instr.dec42)
  | _ => none

/-- A request from its line: the mnemonic up to the first space, the operand after it (30_encoding.md R37). -/
def parseRequest (line : List Char) : Option (Except BoundaryError Instr) :=
  parseWords (line.takeWhile (· != ' ')) ((line.dropWhile (· != ' ')).drop 1)

/-- `Ok(…)` around a value. -/
def okText (value : List Char) : List Char := ['O', 'k', '('] ++ value ++ [')']

/-- The value of an `Ok` response: `true`/`false` for CRCVFY, data and syndrome for HDEC, else the bit string of k_out
characters (30_encoding.md R37). -/
def valueText (i : Instr) (dout : Bus) : List Char :=
  match i with
  | .crcvfy _ => if dout.getLsbD 0 then ['t', 'r', 'u', 'e'] else ['f', 'a', 'l', 's', 'e']
  | .hdec _ => bitsText (dout.extractLsb' 3 4) ++ [',', ' '] ++ bitsText (dout.extractLsb' 0 3)
  | _ => bitsText (dout.extractLsb' 0 i.resultWidth)

/-- The response to operation i as text; none for the status 3, which is never produced (30_encoding.md R31, R37). -/
def responseText (i : Instr) (w : ResponseWord) : Option (List Char) :=
  if statusField w = 0#2 then some (okText (valueText i (doutField w)))
  else if statusField w = 1#2 then some ("Err(UncorrectableError)".toList)
  else if statusField w = 2#2 then some ("Err(IllegalOp)".toList)
  else none

end Sys2Proof.Machine
end

