-- ==== Sys2Proof/Machine/Respond.lean ====
section
/-! DEFINITION. Machine/Respond.lean: the block as a total function of the request, with no state at all (10_state.md rule R10:
"a total function `exec : op × din → response`"). `step`, which runs the engine in the register R, is stated to refine it. -/
namespace Sys2Proof.Machine

/-- `encode16` as a function (43_composer.md R62). -/
def encode16 (p : Payload) : Codeword := encodeFrame (p ++ crcRun p)

/-- `decode42` as a function (43_composer.md R64). -/
def decode42 (cw : Codeword) : Result 16 := crcGate (reassemble cw) (crcRun (reassemble cw))

/-- The response to an operation. -/
def respondInstr : Instr → ResponseWord
  | .mvgt v => response (.ok (matvec 7 4 matGt v))
  | .mvh v => response (.ok (matvec 3 7 matH v))
  | .crc8 p => response (.ok (crcRun p))
  | .crcenc p => response (.ok (p ++ crcRun p))
  | .crcvfy f => response (.ok (boolResult (crcRun f == 0x00#8)))
  | .henc d => response (.ok (hammingEncode d))
  | .hdec v => response (.ok ((hammingDecode v).1 ++ (hammingDecode v).2 : BitVec 7))
  | .enc16 p => response (.ok (encode16 p))
  | .dec42 cw => response (decode42 cw)

/-- The response to a request word. -/
def respond (w : RequestWord) : ResponseWord :=
  match decode w with
  | .ok i => respondInstr i
  | .error (.reservedOp _) => response (Result.err .illegalOp : Result 0)

end Sys2Proof.Machine
end

