-- ==== Sys2Proof/Safety.lean ====
section
/-! DEFINITION. Safety.lean: the terms claims use: a legal response, the invariant of a state, a session of requests, the weight
of an error pattern, and the code's block table. -/
namespace Sys2Proof.Machine

/-- A response the block may deliver: status 3 is "never produced" and `dout` is all zero when `status` ≠ 0 (30_encoding.md R31). -/
def responseLegal (w : ResponseWord) : Bool :=
  statusField w != 3#2 && (statusField w == 0#2 || doutField w == 0#42)

/-- The invariant of a state: what stands on the response port is a legal response. -/
def State.inv (s : State) : Bool :=
  match s.resp with
  | none => true
  | some w => responseLegal w

/-- The host presents one request and reads its response. -/
def serve (w : RequestWord) (s : State) : Option (ResponseWord × State) :=
  match present w s with
  | .next s =>
    match step s with
    | .next t => t.resp.map fun r => (r, t)
    | _ => none
  | _ => none

/-- A sequence of requests, each presented after the previous response (70_reset_and_hazards.md R83, 95_test_vectors.md V11). -/
def session : List RequestWord → State → Option (List ResponseWord × State)
  | [], s => some ([], s)
  | w :: ws, s =>
    match serve w s with
    | none => none
    | some (r, t) =>
      match session ws t with
      | none => none
      | some (rs, u) => some (r :: rs, u)

/-- The operations that run the CRC engine (10_state.md R14, "State written: R" of rules R47 to R49, R62, R64). -/
def usesCrc : Instr → Bool
  | .mvgt _ => false
  | .mvh _ => false
  | .crc8 _ => true
  | .crcenc _ => true
  | .crcvfy _ => true
  | .henc _ => false
  | .hdec _ => false
  | .enc16 _ => true
  | .dec42 _ => true

/-- The number of ones of a vector. -/
def weight {k : Nat} (v : BitVec k) : Nat := (seqBits v).count true

/-- The sixteen blocks of 42_hamming74.md R60, by data value 0 to 15, written out from its table. -/
def hammingBlocks : List Block :=
  [0x00#7, 0x0B#7, 0x17#7, 0x1C#7, 0x26#7, 0x2D#7, 0x31#7, 0x3A#7,
   0x45#7, 0x4E#7, 0x52#7, 0x59#7, 0x63#7, 0x68#7, 0x74#7, 0x7F#7]

/-- The values of R after each step of a run (41_crc8.md R46). -/
def crcTrace {n : Nat} (v : BitVec n) : List Remainder := ((seqBits v).scanl crcStep Config.crcInit).tail

end Sys2Proof.Machine
end

