-- ==== Sys2Proof/Certificates/Slice0/Obligations.lean ====
section
/-! DEFINITION. Certificates/Slice0/Obligations.lean: the statements for the provers. Each docstring names the rule of spec/ it
formalises. `getMsbD i` is the sequence index ⟨i⟩, `getLsbD i` the bus index [i] (00_scope.md rule R7). -/
open Sys2Proof Sys2Proof.Machine

/-! ## Reset, the ports, the step -/

/-- R80: what reset leaves: the hardwired constants, R = 0x00, no operation in progress, no response pending; and a reset while a
request is held abandons it without a response. -/
def Obligations.ResetLeavesIdleBlock : Prop :=
  Config.G = [0x45#7, 0x26#7, 0x17#7, 0x0B#7] ∧ Config.H = [0x74#7, 0x3A#7, 0x59#7] ∧ Config.poly = 0x107#9 ∧
  State.reset.crcR = 0x00#8 ∧ State.reset.req = none ∧ State.reset.resp = none ∧
  (∀ s : State, resetEvent s = State.reset)

/-- The response invariant holds at reset (no response stands on the port). -/
def Obligations.ResetMeetsResponseInvariant : Prop := State.reset.inv = true

/-- R31, R76 as an invariant: from EVERY state (reached or not) whose response port shows a legal response, a step leaves a legal response: never
status 3, and `dout` = 0 whenever `status` ≠ 0. -/
def Obligations.StepKeepsResponseInvariant : Prop :=
  ∀ s t : State, s.inv = true → step s = .next t → t.inv = true

/-- A step whose request decodes to i is `exec i` on the state with the request taken off the port; that is all the step adds
(20_memory.md R24; that one step is one transaction is log entry 1). -/
def Obligations.StepRunsDecodedOperation : Prop :=
  ∀ (s : State) (w : RequestWord) (i : Instr), s.req = some w → decode w = .ok i →
    step s = exec i { s with req := none }

/-- The model's reading (log entry 4, from R74): without a request a step changes nothing; so the response port keeps the last response
(log entry 3, DESIGN CHOICE) and R the value of the last run (log entry 5, DEDUCED). -/
def Obligations.IdleStepChangesNothing : Prop :=
  ∀ s : State, s.req = none → step s = .next s

/-- R85 (the spec marks it derived): the response to an accepted request always comes, in one step, and nothing is left in flight;
a CRC run has exactly the length of its operand. -/
def Obligations.EveryRequestIsAnswered : Prop :=
  (∀ (s : State) (w : RequestWord), s.req = some w →
    ∃ t r, step s = .next t ∧ t.req = none ∧ t.resp = some r) ∧
  (∀ (k : Nat) (v : BitVec k), (seqBits v).length = k) ∧
  (∀ s : State, ∃ t, step s = .next t)

/-- R10, one request: the register-based machine answers exactly what the stateless function `respond` gives for the request word,
whatever the state held before. -/
def Obligations.StepAnswersAsPureFunction : Prop :=
  ∀ (s : State) (w : RequestWord), s.req = some w →
    ∃ t, step s = .next t ∧ t.req = none ∧ t.resp = some (respond w)

/-- R10 and R24 over any sequence of requests, from ANY idle state: the responses are the pure function of the requests one by one,
so no state crosses from one operation to the next and a repeated request gets the same response. -/
def Obligations.SessionAnswersAsPureFunction : Prop :=
  ∀ (ws : List RequestWord) (s : State), s.req = none →
    ∃ t, session ws s = some (ws.map respond, t) ∧ t.req = none

/-- R77: an error leaves nothing behind: after a request that was answered with an error, the next request gets the response it
would get as the first request after reset. -/
def Obligations.ErrorLeavesNothingBehind : Prop :=
  ∀ (s t : State) (w w' : RequestWord) (r : ResponseWord),
    serve w s = some (r, t) → statusField r ≠ 0#2 →
    (serve w' t).map Prod.fst = (serve w' State.reset).map Prod.fst ∧ (serve w' t).isSome = true

/-- R14: a run loads R, so it ends with a value that does not depend on what R held; the operations without a run neither read nor
write R ("State written: none", R41, R42, R53, R57); and the response never depends on it. -/
def Obligations.CrcRegisterIsOperationLocal : Prop :=
  (∀ (n : Nat) (v : BitVec n) (s : State), runCrc v s = { s with crcR := crcRun v }) ∧
  (∀ (i : Instr) (s t : State) (r : Remainder), exec i s = .next t →
    ∃ t', exec i { s with crcR := r } = .next t' ∧ t'.resp = t.resp ∧
      (usesCrc i = true → t'.crcR = t.crcR) ∧ (usesCrc i = false → t.crcR = s.crcR ∧ t'.crcR = r))

/-- The frame of every operation: exec reads and leaves the request port as it is, writes the response port, and writes R only in
the five operations whose rules say "State written: R". -/
def Obligations.OperationFrame : Prop :=
  ∀ (i : Instr) (s t : State), exec i s = .next t →
    t.req = s.req ∧ t.resp = some (respondInstr i) ∧ (usesCrc i = false → t.crcR = s.crcR)

/-- R83: an instance accepts a request only when it is idle, and it is idle again after the step that delivers the response.
Three clauses are the model's choice and no rule of the spec: that presenting a request leaves the old response on the port (log
entry 3, DESIGN CHOICE), that it leaves R as the last run left it (log entry 5, DEDUCED), and that a busy instance faults by name
(log entry 7, DEDUCED). -/
def Obligations.RequestsAcceptedOnlyWhenIdle : Prop :=
  (∀ (s : State) (w : RequestWord), s.req = none → present w s = .next { s with req := some w }) ∧
  (∀ (s : State) (w v : RequestWord), s.req = some v → present w s = .fault .requestWhileBusy) ∧
  (∀ s t : State, step s = .next t → t.req = none) ∧ State.reset.req = none

/-- R27: instances share nothing: a step of one changes that one alone, and what it becomes depends on it alone. -/
def Obligations.InstanceStepIsLocal : Prop :=
  ∀ (n : Nat) (k : Fin n) (b : Bank n), ∃ (s : State) (b' : Bank n),
    step b[k] = .next s ∧ b.stepAt k = .next b' ∧ b'[k] = s ∧ ∀ j : Fin n, j ≠ k → b'[j] = b[j]

/-- R25 (b): two instances answer in either order with the same result. -/
def Obligations.InstanceStepsCommute : Prop :=
  ∀ (n : Nat) (i j : Fin n) (b b1 b2 : Bank n), i ≠ j → b.stepAt i = .next b1 → b1.stepAt j = .next b2 →
    ∃ b1', b.stepAt j = .next b1' ∧ b1'.stepAt i = .next b2

/-! ## Encoding -/

/-- Every operation, with every operand, is read back from its own request word. -/
def Obligations.DecodeEncodeRoundTrip : Prop := ∀ i : Instr, decode (encode i) = .ok i

/-- The other direction of the round trip: re-encoding what was decoded gives back `op` and the live operand bits of the request
word, where R30, R32 and R33 place them. That the ignored bits come out as zeros is the model's choice of encoder (log entry 13,
DESIGN CHOICE), no rule of the spec. -/
def Obligations.EncodeDecodeClearsIgnoredBits : Prop :=
  ∀ (w : RequestWord) (i : Instr), decode w = .ok i →
    opField (encode i) = opField w ∧
    ∀ j, j < 42 → (encode i).getLsbD j = (decide (j < i.operandWidth) && w.getLsbD j)

/-- R33: the opcode map: each row's mask and match select its operation with its operand width, and MVGT and HENC return the same
value for every operand. -/
def Obligations.OpcodeMapRows : Prop :=
  (∀ w : RequestWord,
    (w &&& 0x3C0000000000#46 = 0x040000000000#46 ↔ decode w = .ok (.mvgt (w.extractLsb' 0 4))) ∧
    (w &&& 0x3C0000000000#46 = 0x080000000000#46 ↔ decode w = .ok (.mvh (w.extractLsb' 0 7))) ∧
    (w &&& 0x3C0000000000#46 = 0x0C0000000000#46 ↔ decode w = .ok (.crc8 (w.extractLsb' 0 16))) ∧
    (w &&& 0x3C0000000000#46 = 0x100000000000#46 ↔ decode w = .ok (.crcenc (w.extractLsb' 0 16))) ∧
    (w &&& 0x3C0000000000#46 = 0x140000000000#46 ↔ decode w = .ok (.crcvfy (w.extractLsb' 0 24))) ∧
    (w &&& 0x3C0000000000#46 = 0x180000000000#46 ↔ decode w = .ok (.henc (w.extractLsb' 0 4))) ∧
    (w &&& 0x3C0000000000#46 = 0x1C0000000000#46 ↔ decode w = .ok (.hdec (w.extractLsb' 0 7))) ∧
    (w &&& 0x3C0000000000#46 = 0x200000000000#46 ↔ decode w = .ok (.enc16 (w.extractLsb' 0 16))) ∧
    (w &&& 0x3C0000000000#46 = 0x240000000000#46 ↔ decode w = .ok (.dec42 (w.extractLsb' 0 42))) ∧
    (w.extractLsb' 42 4 = 0x0#4 ∨ 0xA#4 ≤ w.extractLsb' 42 4 ↔ decode w = .error (.reservedOp (w.extractLsb' 42 4)))) ∧
  (∀ d : DataGroup, respondInstr (.mvgt d) = respondInstr (.henc d))

/-- R34: a reserved `op` is answered `Err(IllegalOp)`, status 2 and dout 0, whatever `din` holds; nothing else changes, and the next
request is served normally. That the model answers it, where the rule also allows a refusal, is log entry 6. -/
def Obligations.ReservedOpAnswersIllegalOp : Prop :=
  ∀ (s : State) (w : RequestWord), s.req = some w → (opField w = 0x0#4 ∨ 0xA#4 ≤ opField w) →
    step s = .next { s with req := none, resp := some 0x80000000000#44 } ∧
    ∀ w' : RequestWord,
      (serve w' { s with req := none, resp := some 0x80000000000#44 }).map Prod.fst = some (respond w')

/-- R35: the bits of `din` above the operand do not affect the response, and all 2^46 request words have a defined response. -/
def Obligations.IgnoredBitsDoNotMatter : Prop :=
  (∀ (s : State) (w w' : RequestWord) (i : Instr), decode w = .ok i → opField w' = opField w →
    (∀ j, j < i.operandWidth → w'.getLsbD j = w.getLsbD j) →
    step { s with req := some w' } = step { s with req := some w }) ∧
  (∀ (s : State) (w : RequestWord), ∃ t r, step { s with req := some w } = .next t ∧ t.resp = some r)

/-- R30, R33: request words written out bit by bit decode to the operation they stand for. -/
def Obligations.WordsDecodeAsWritten : Prop :=
  decode 0b0001000000000000000000000000000000000000001010#46 = .ok (.mvgt 0b1010#4) ∧
  decode 0b0010000000000000000000000000000000000001010110#46 = .ok (.mvh 0b1010110#7) ∧
  decode 0b0011000000000000000000000000001010010111000011#46 = .ok (.crc8 0b1010010111000011#16) ∧
  decode 0b0100000000000000000000000000001010010111000011#46 = .ok (.crcenc 0b1010010111000011#16) ∧
  decode 0b0101000000000000000000101001011100001100011110#46 = .ok (.crcvfy 0b101001011100001100011110#24) ∧
  decode 0b0110000000000000000000000000000000000000001010#46 = .ok (.henc 0b1010#4) ∧
  decode 0b0111000000000000000000000000000000000001010110#46 = .ok (.hdec 0b1010110#7) ∧
  decode 0b1000000000000000000000000000001010010111000011#46 = .ok (.enc16 0b1010010111000011#16) ∧
  decode 0b1001101001001011011100011001110000010111110100#46 =
    .ok (.dec42 0b101001001011011100011001110000010111110100#42) ∧
  decode 0x000000000123#46 = .error (.reservedOp 0x0#4)

/-- R31: the response format: the status codes, what dout holds, which operations produce which status. -/
def Obligations.ResponseFormat : Prop :=
  (∀ (k : Nat) (v : BitVec k), k ≤ 42 →
    statusField (response (.ok v)) = 0#2 ∧
    ∀ j, j < 42 → (response (.ok v)).getLsbD j = (decide (j < k) && v.getLsbD j)) ∧
  (∀ k : Nat, response (Result.err .uncorrectableError : Result k) = 0x40000000000#44 ∧
    response (Result.err .illegalOp : Result k) = 0x80000000000#44) ∧
  (∀ w : RequestWord,
    statusField (respond w) ≠ 3#2 ∧
    (statusField (respond w) ≠ 0#2 → doutField (respond w) = 0#42) ∧
    (statusField (respond w) = 1#2 → ∃ cw, decode w = .ok (.dec42 cw)) ∧
    (statusField (respond w) = 2#2 ↔ (opField w = 0x0#4 ∨ 0xA#4 ≤ opField w)))

/-- R32: operand and result assembly, in both indexings; HDEC's pair and CRCVFY's boolean on dout; the text form of a value. -/
def Obligations.OperandAndResultAssembly : Prop :=
  (∀ (k i : Nat) (din : Bus), k ≤ 42 → i < k → (operandField k din).getMsbD i = din.getLsbD (k - 1 - i)) ∧
  (∀ (k i : Nat) (v : BitVec k), k ≤ 42 → i < k → v.getMsbD i = (onBus v).getLsbD (k - 1 - i)) ∧
  (∀ (k i : Nat) (v : BitVec k), k ≤ i → (onBus v).getLsbD i = false) ∧
  (∀ v : Block, (doutField (respondInstr (.hdec v))).extractLsb' 3 4 = hammingData v ∧
    (doutField (respondInstr (.hdec v))).extractLsb' 0 3 = syndrome v ∧
    (doutField (respondInstr (.hdec v))).getLsbD 6 = (hammingData v).getMsbD 0 ∧
    (doutField (respondInstr (.hdec v))).getLsbD 2 = (syndrome v).getMsbD 0) ∧
  (∀ f : Frame, statusField (respondInstr (.crcvfy f)) = 0#2 ∧
    doutField (respondInstr (.crcvfy f)) = if crcRun f = 0x00#8 then 1#42 else 0#42) ∧
  (∀ (k i : Nat) (v : BitVec k), i < k →
    (bitsText v).length = k ∧ (bitsText v)[i]? = some (if v.getMsbD i then '1' else '0'))

/-! ## The matrix-vector multiplier -/

/-- R40: each output bit is the XOR of the ANDs of a row with the vector; equivalently the parity of row & v; equivalently the
product is the XOR of the columns the vector selects. -/
def Obligations.MatvecIsGf2Product : Prop :=
  ∀ (m n : Nat) (M : Matrix) (v : BitVec n),
    (∀ r, r < m → (matvec m n M v).getMsbD r = xorSum n fun c => M r c && v.getMsbD c) ∧
    (∀ r, r < m → (matvec m n M v).getMsbD r = decide (weight (ofSeq n (M r) &&& v) % 2 = 1)) ∧
    matvec m n M v =
      ((List.range n).filter v.getMsbD).foldl (fun acc c => acc ^^^ ofSeq m fun r => M r c) 0#m

/-- R43 (the spec marks it derived): linearity, zero, unit vectors for every matrix, and `H · Gᵗ = 0`. -/
def Obligations.MatvecLaws : Prop :=
  (∀ (m n : Nat) (M : Matrix) (u v : BitVec n), matvec m n M (u ^^^ v) = matvec m n M u ^^^ matvec m n M v) ∧
  (∀ (m n : Nat) (M : Matrix), matvec m n M 0#n = 0#m) ∧
  (∀ (m n : Nat) (M : Matrix) (c : Nat), c < n → matvec m n M (unitAt n c) = ofSeq m fun r => M r c) ∧
  (∀ d : DataGroup, matvec 3 7 matH (matvec 7 4 matGt d) = 0#3)

/-- R41, MVGT: encoding, result, each output bit, corner cases, equality with HENC, and the example as a step. -/
def Obligations.MvgtMultipliesByTransposedGenerator : Prop :=
  (∀ din : Bus, decode (requestWord 0x1#4 din) = .ok (.mvgt (din.extractLsb' 0 4))) ∧
  (∀ (v : DataGroup) (s : State),
    exec (.mvgt v) s = .next { s with resp := some (response (.ok (matvec 7 4 matGt v))) }) ∧
  (∀ v : DataGroup, ∀ o : Block, o = matvec 7 4 matGt v →
    o.getMsbD 0 = v.getMsbD 0 ∧ o.getMsbD 1 = v.getMsbD 1 ∧ o.getMsbD 2 = v.getMsbD 2 ∧ o.getMsbD 3 = v.getMsbD 3 ∧
    o.getMsbD 4 = (v.getMsbD 0 ^^ v.getMsbD 1 ^^ v.getMsbD 2) ∧
    o.getMsbD 5 = (v.getMsbD 1 ^^ v.getMsbD 2 ^^ v.getMsbD 3) ∧
    o.getMsbD 6 = (v.getMsbD 0 ^^ v.getMsbD 2 ^^ v.getMsbD 3)) ∧
  matvec 7 4 matGt 0b0000#4 = 0b0000000#7 ∧ matvec 7 4 matGt 0b1111#4 = 0b1111111#7 ∧
  (∀ (v : DataGroup) (s : State), exec (.mvgt v) s = exec (.henc v) s) ∧
  (∀ s : State, s.req = some 0x04000000000A#46 →
    step s = .next { s with req := none, resp := some 0x00000000052#44 })

/-- R42, MVH: encoding, result, each output bit, corner cases, agreement with HDEC's syndrome, and the example as a step. -/
def Obligations.MvhMultipliesByParityCheck : Prop :=
  (∀ din : Bus, decode (requestWord 0x2#4 din) = .ok (.mvh (din.extractLsb' 0 7))) ∧
  (∀ (v : Block) (s : State),
    exec (.mvh v) s = .next { s with resp := some (response (.ok (matvec 3 7 matH v))) }) ∧
  (∀ v : Block, ∀ o : Syndrome, o = matvec 3 7 matH v →
    o.getMsbD 0 = (v.getMsbD 0 ^^ v.getMsbD 1 ^^ v.getMsbD 2 ^^ v.getMsbD 4) ∧
    o.getMsbD 1 = (v.getMsbD 1 ^^ v.getMsbD 2 ^^ v.getMsbD 3 ^^ v.getMsbD 5) ∧
    o.getMsbD 2 = (v.getMsbD 0 ^^ v.getMsbD 2 ^^ v.getMsbD 3 ^^ v.getMsbD 6)) ∧
  matvec 3 7 matH 0b0000000#7 = 0b000#3 ∧ matvec 3 7 matH 0b1111111#7 = 0b000#3 ∧
  ((List.range 7).map fun j => matvec 3 7 matH (unitAt 7 j)) =
    [0b101#3, 0b110#3, 0b111#3, 0b011#3, 0b100#3, 0b010#3, 0b001#3] ∧
  (∀ v : Block, matvec 3 7 matH v = 0#3 ↔ v ∈ hammingBlocks) ∧
  (∀ v : Block, (doutField (respondInstr (.hdec v))).extractLsb' 0 3 = matvec 3 7 matH v) ∧
  (∀ s : State, s.req = some 0x080000000056#46 →
    step s = .next { s with req := none, resp := some 0x00000000004#44 })

/-! ## The CRC-8 engine -/

/-- R45: one step of the engine bit by bit; in the register it writes R and nothing else. -/
def Obligations.CrcStepBitByBit : Prop :=
  (∀ (R : Remainder) (b : Bool),
    (crcStep R b).extractLsb' 3 5 = R.extractLsb' 2 5 ∧
    (crcStep R b).getLsbD 2 = (R.getLsbD 1 ^^ (R.getLsbD 7 ^^ b)) ∧
    (crcStep R b).getLsbD 1 = (R.getLsbD 0 ^^ (R.getLsbD 7 ^^ b)) ∧
    (crcStep R b).getLsbD 0 = (R.getLsbD 7 ^^ b) ∧
    crcStep R b = if (R.getLsbD 7 ^^ b) then (R <<< 1) ^^^ 0x07#8 else R <<< 1) ∧
  (∀ (s : State) (b : Bool), shiftCrc s b = { s with crcR := crcStep s.crcR b })

/-- R46: one run: R starts at 0x00, takes exactly the n bits of the input MSB first, one step each, and nothing follows. -/
def Obligations.CrcRunTakesBitsInOrder : Prop :=
  ∀ (n : Nat) (v : BitVec n) (s : State), ∃ reg : Nat → Remainder,
    reg 0 = 0x00#8 ∧ (∀ i, i < n → reg (i + 1) = crcStep (reg i) (v.getLsbD (n - 1 - i))) ∧
    runCrc v s = { s with crcR := reg n } ∧ crcRun v = reg n

/-- R47, CRC8: encoding, result and final R, corner cases, leading zeros, the trace, the example as a step. -/
def Obligations.Crc8ReturnsPayloadRemainder : Prop :=
  (∀ din : Bus, decode (requestWord 0x3#4 din) = .ok (.crc8 (din.extractLsb' 0 16))) ∧
  (∀ (p : Payload) (s : State),
    exec (.crc8 p) s = .next { s with crcR := crcRun p, resp := some (response (.ok (crcRun p))) }) ∧
  crcRun 0x0000#16 = 0x00#8 ∧ crcRun 0x0001#16 = 0x07#8 ∧ crcRun 0x0107#16 = 0x00#8 ∧ crcRun 0x8380#16 = 0x00#8 ∧
  crcRun 0xFFFF#16 = 0x24#8 ∧
  (∀ (k n : Nat) (v : BitVec n), crcRun (0#k ++ v) = crcRun v) ∧
  crcTrace 0xA5C3#16 =
    [0x07#8, 0x0E#8, 0x1B#8, 0x36#8, 0x6C#8, 0xDF#8, 0xB9#8, 0x72#8, 0xE3#8, 0xC6#8, 0x8B#8, 0x11#8, 0x22#8, 0x44#8,
      0x8F#8, 0x1E#8] ∧
  (∀ s : State, s.req = some 0x0C000000A5C3#46 →
    step s = .next { s with req := none, crcR := 0x1E#8, resp := some 0x0000000001E#44 })

/-- R48, CRCENC: encoding, result and final R, the payload passed through, every frame it makes checks, the example as a step. -/
def Obligations.CrcencAppendsRemainder : Prop :=
  (∀ din : Bus, decode (requestWord 0x4#4 din) = .ok (.crcenc (din.extractLsb' 0 16))) ∧
  (∀ (p : Payload) (s : State), exec (.crcenc p) s =
    .next { s with crcR := crcRun p, resp := some (response (.ok (p ++ crcRun p : Frame))) }) ∧
  (∀ p : Payload, (doutField (respondInstr (.crcenc p))).extractLsb' 8 16 = p ∧
    (doutField (respondInstr (.crcenc p))).extractLsb' 0 8 = crcRun p) ∧
  respondInstr (.crcenc 0x0000#16) = 0#44 ∧
  (∀ p : Payload, doutField (respondInstr (.crcvfy (p ++ crcRun p : Frame))) = 1#42) ∧
  (∀ s : State, s.req = some 0x10000000A5C3#46 →
    step s = .next { s with req := none, crcR := 0x1E#8, resp := some 0x00000A5C31E#44 })

/-- The pseudocode of R49, CRCVFY: encoding, result and final R, an invalid frame is a value with status 0, examples as steps. -/
def Obligations.CrcvfyReportsFrameValidity : Prop :=
  (∀ din : Bus, decode (requestWord 0x5#4 din) = .ok (.crcvfy (din.extractLsb' 0 24))) ∧
  (∀ (f : Frame) (s : State), exec (.crcvfy f) s =
    .next { s with crcR := crcRun f, resp := some (if crcRun f = 0x00#8 then 1#44 else 0#44) }) ∧
  crcRun 0x000000#24 = 0x00#8 ∧ crcRun 0x000107#24 = 0x00#8 ∧ crcRun 0x000100#24 = 0x15#8 ∧
  (∀ s : State, s.req = some 0x140000A5C31E#46 →
    step s = .next { s with req := none, crcR := 0x00#8, resp := some 0x00000000001#44 }) ∧
  (∀ s : State, s.req = some 0x140000A5C31F#46 →
    step s = .next { s with req := none, crcR := 0x07#8, resp := some 0x00000000000#44 })

open Polynomial in
/-- R50 (a) (the spec marks it derived): the run over v is the remainder of `v(x)·x⁸` on division by x⁸+x²+x+1 over GF(2). -/
def Obligations.CrcIsPolynomialRemainder : Prop :=
  ∀ (n : Nat) (v : BitVec n),
    ((∑ i ∈ Finset.range n, if v.getMsbD i then (X : (ZMod 2)[X]) ^ (n - 1 - i) else 0) * X ^ 8) %ₘ
        (X ^ 8 + X ^ 2 + X + 1) =
      ∑ j ∈ Finset.range 8, if (crcRun v).getLsbD j then (X : (ZMod 2)[X]) ^ j else 0

/-- R50 (b) (the spec marks it derived): the run is linear. -/
def Obligations.CrcRunIsLinear : Prop :=
  (∀ (n : Nat) (u v : BitVec n), crcRun (u ^^^ v) = crcRun u ^^^ crcRun v) ∧ ∀ n : Nat, crcRun 0#n = 0x00#8

/-- R50 (c) (the spec marks it derived): the check of a frame passes exactly when its remainder is that of its payload. -/
def Obligations.CrcCheckIsEquality : Prop :=
  ∀ (p : Payload) (r : Remainder), crcRun (p ++ r : Frame) = 0x00#8 ↔ r = crcRun p

/-- R50 (d) (the spec marks it derived): a valid frame changed by e checks exactly when e itself checks; and it never does for a nonzero e of weight at most 3,
of odd weight, or confined to 8 consecutive sequence positions. -/
def Obligations.CrcDetectsSmallErrors : Prop :=
  ∀ f e : Frame, crcRun f = 0x00#8 →
    (crcRun (f ^^^ e) = 0x00#8 ↔ crcRun e = 0x00#8) ∧
    (e ≠ 0#24 → weight e ≤ 3 → crcRun (f ^^^ e) ≠ 0x00#8) ∧
    (weight e % 2 = 1 → crcRun (f ^^^ e) ≠ 0x00#8) ∧
    (∀ i, e ≠ 0#24 → (∀ j, e.getMsbD j = true → i ≤ j ∧ j < i + 8) → crcRun (f ^^^ e) ≠ 0x00#8)

/-! ## The Hamming(7,4) codec -/

/-- R53, HENC: encoding, result, each output bit, corner cases, the source's example as a step. -/
def Obligations.HencEncodesGroup : Prop :=
  (∀ din : Bus, decode (requestWord 0x6#4 din) = .ok (.henc (din.extractLsb' 0 4))) ∧
  (∀ (d : DataGroup) (s : State),
    exec (.henc d) s = .next { s with resp := some (response (.ok (matvec 7 4 matGt d))) }) ∧
  (∀ d : DataGroup, ∀ c : Block, c = hammingEncode d →
    c.getMsbD 0 = d.getMsbD 0 ∧ c.getMsbD 1 = d.getMsbD 1 ∧ c.getMsbD 2 = d.getMsbD 2 ∧ c.getMsbD 3 = d.getMsbD 3 ∧
    c.getMsbD 4 = (d.getMsbD 0 ^^ d.getMsbD 1 ^^ d.getMsbD 2) ∧
    c.getMsbD 5 = (d.getMsbD 1 ^^ d.getMsbD 2 ^^ d.getMsbD 3) ∧
    c.getMsbD 6 = (d.getMsbD 0 ^^ d.getMsbD 2 ^^ d.getMsbD 3)) ∧
  hammingEncode 0b0000#4 = 0b0000000#7 ∧ hammingEncode 0b1111#4 = 0b1111111#7 ∧
  ((List.range 4).map fun i => hammingEncode (unitAt 4 i)) = [0x45#7, 0x26#7, 0x17#7, 0x0B#7] ∧
  (∀ (d : DataGroup) (s : State), exec (.henc d) s = exec (.mvgt d) s) ∧
  (∀ s : State, s.req = some 0x18000000000A#46 →
    step s = .next { s with req := none, resp := some 0x00000000052#44 })

/-- R54: the encoder is systematic, and its parity bits stand below the data on dout. -/
def Obligations.HammingEncoderIsSystematic : Prop :=
  ∀ d : DataGroup, seqSlice (hammingEncode d) 0 4 = d ∧
    (doutField (respondInstr (.henc d))).extractLsb' 3 4 = d ∧
    (doutField (respondInstr (.henc d))).extractLsb' 0 3 = seqSlice (hammingEncode d) 4 3 ∧
    (doutField (respondInstr (.henc d))).getLsbD 2 = (hammingEncode d).getMsbD 4

/-- R60 (the spec marks it derived): the sixteen blocks and their weights; they are the words HENC produces and the only words with syndrome 000. -/
def Obligations.HammingBlockTable : Prop :=
  ((List.range 16).map fun d => hammingEncode (BitVec.ofNat 4 d)) =
    [0x00#7, 0x0B#7, 0x17#7, 0x1C#7, 0x26#7, 0x2D#7, 0x31#7, 0x3A#7,
     0x45#7, 0x4E#7, 0x52#7, 0x59#7, 0x63#7, 0x68#7, 0x74#7, 0x7F#7] ∧
  ((List.range 16).map fun d => weight (hammingEncode (BitVec.ofNat 4 d))) =
    [0, 3, 4, 3, 3, 4, 3, 4, 3, 4, 3, 4, 4, 3, 4, 7] ∧
  (∀ v : Block, (∃ d, hammingEncode d = v) ↔ syndrome v = 0#3) ∧
  (∀ d : DataGroup, d ≠ 0#4 → 3 ≤ weight (hammingEncode d))

/-- R55: the syndrome bit by bit; it is the product with H and MVH's result. -/
def Obligations.SyndromeBits : Prop :=
  (∀ v : Block, ∀ y : Syndrome, y = syndrome v →
    y.getMsbD 0 = (v.getMsbD 0 ^^ v.getMsbD 1 ^^ v.getMsbD 2 ^^ v.getMsbD 4) ∧
    y.getMsbD 1 = (v.getMsbD 1 ^^ v.getMsbD 2 ^^ v.getMsbD 3 ^^ v.getMsbD 5) ∧
    y.getMsbD 2 = (v.getMsbD 0 ^^ v.getMsbD 2 ^^ v.getMsbD 3 ^^ v.getMsbD 6)) ∧
  (∀ v : Block, syndrome v = matvec 3 7 matH v ∧ respondInstr (.mvh v) = response (.ok (syndrome v)))

/-- The sentence of R55 that the spec marks derived: the syndrome of a received word depends on the error alone. -/
def Obligations.SyndromeDependsOnErrorAlone : Prop :=
  ∀ c e : Block, c ∈ hammingBlocks → syndrome (c ^^^ e) = syndrome e

/-- R56: the integer of a syndrome, the error position as the one column of H equal to it, and the source's mapping, as positions
and as the mask XORed into the word. -/
def Obligations.ErrorPositionIsMatchingColumn : Prop :=
  (∀ y : Syndrome, y.toNat = 4 * (y.getMsbD 0).toNat + 2 * (y.getMsbD 1).toNat + (y.getMsbD 2).toNat) ∧
  errorPosition 0#3 = none ∧
  (∀ y : Syndrome, y ≠ 0#3 → ∃ j, j < 7 ∧ errorPosition y = some j ∧ columnH j = y ∧
    ∀ j', j' < 7 → columnH j' = y → j' = j) ∧
  ((List.range 8).map fun s => errorPosition (BitVec.ofNat 3 s)) =
    [none, some 6, some 5, some 3, some 4, some 0, some 1, some 2] ∧
  (∀ v : Block, correct v =
    v ^^^ [0x00#7, 0x01#7, 0x02#7, 0x08#7, 0x04#7, 0x40#7, 0x20#7, 0x10#7].getD (syndrome v).toNat 0#7)

/-- R57, HDEC: encoding, result for every received word (never an error), the correction, the corner cases, the example as a step. -/
def Obligations.HdecCorrectsOneBit : Prop :=
  (∀ din : Bus, decode (requestWord 0x7#4 din) = .ok (.hdec (din.extractLsb' 0 7))) ∧
  (∀ (v : Block) (s : State), exec (.hdec v) s =
    .next { s with resp := some (response (.ok (hammingData v ++ syndrome v : Block))) }) ∧
  (∀ v : Block, syndrome v = matvec 3 7 matH v) ∧
  (∀ v : Block, syndrome v = 0#3 → hammingData v = seqSlice v 0 4) ∧
  (∀ (v : Block) (j : Nat), j < 7 → columnH j = syndrome v →
    hammingData v = seqSlice (v ^^^ unitAt 7 j) 0 4) ∧
  (∀ c : Block, c ∈ hammingBlocks → hammingDecode c = (seqSlice c 0 4, 0#3)) ∧
  (∀ (c : Block) (j : Nat), c ∈ hammingBlocks → j < 7 →
    hammingDecode (c ^^^ unitAt 7 j) = (seqSlice c 0 4, columnH j)) ∧
  (∀ v : Block, syndrome v ∈ [0b001#3, 0b010#3, 0b100#3] → hammingData v = seqSlice v 0 4) ∧
  (∀ v : Block, syndrome v ∈ [0b011#3, 0b101#3, 0b110#3, 0b111#3] →
    weight (hammingData v ^^^ seqSlice v 0 4) = 1) ∧
  (∀ v : Block, correct v ∈ hammingBlocks ∧ hammingEncode (hammingData v) = correct v ∧ syndrome (correct v) = 0#3) ∧
  hammingDecode 0b0000000#7 = (0b0000#4, 0b000#3) ∧ hammingDecode 0b1111111#7 = (0b1111#4, 0b000#3) ∧
  (∀ s : State, s.req = some 0x1C0000000056#46 →
    step s = .next { s with req := none, resp := some 0x00000000054#44 })

/-- R58: what HDEC does with two or more flipped bits in a block: two flips have a nonzero syndrome and always give wrong data, in 1 to 3
bits; three or more have syndrome zero exactly when the error is a block, and then nothing is flipped and the data is wrong; and
in every case the data is that of the one block within distance 1. -/
def Obligations.MultipleErrorsMiscorrect : Prop :=
  (∀ c e : Block, c ∈ hammingBlocks → weight e = 2 →
    syndrome (c ^^^ e) ≠ 0#3 ∧
    (∃ k, k < 7 ∧ columnH k = syndrome (c ^^^ e) ∧ e.getMsbD k = false ∧ (e ^^^ unitAt 7 k) ∈ hammingBlocks ∧
      weight (e ^^^ unitAt 7 k) = 3 ∧ correct (c ^^^ e) = c ^^^ (e ^^^ unitAt 7 k)) ∧
    1 ≤ weight (hammingData (c ^^^ e) ^^^ seqSlice c 0 4) ∧ weight (hammingData (c ^^^ e) ^^^ seqSlice c 0 4) ≤ 3) ∧
  (∀ c e : Block, c ∈ hammingBlocks → 3 ≤ weight e →
    (syndrome (c ^^^ e) = 0#3 ↔ e ∈ hammingBlocks) ∧
    (syndrome (c ^^^ e) = 0#3 →
      hammingData (c ^^^ e) = seqSlice (c ^^^ e) 0 4 ∧ hammingData (c ^^^ e) ≠ seqSlice c 0 4)) ∧
  (∀ v : Block, ∃ b, b ∈ hammingBlocks ∧ weight (b ^^^ v) ≤ 1 ∧ hammingData v = seqSlice b 0 4 ∧
    ∀ b', b' ∈ hammingBlocks → weight (b' ^^^ v) ≤ 1 → b' = b)

/-- R59 (the spec marks it derived): the laws of the code: zero syndrome, round trip, perfect code, single-error correction, syndromes equally frequent. -/
def Obligations.HammingCodeLaws : Prop :=
  (∀ v : Block, matvec 3 7 matH v = 0#3 ↔ v ∈ hammingBlocks) ∧
  (∀ d : DataGroup, hammingDecode (hammingEncode d) = (d, 0#3)) ∧
  (∀ v : Block, correct v ∈ hammingBlocks ∧ weight (correct v ^^^ v) ≤ 1 ∧
    ∀ b, b ∈ hammingBlocks → weight (b ^^^ v) ≤ 1 → b = correct v) ∧
  (∀ (d : DataGroup) (j : Nat), j < 7 → hammingDecode (hammingEncode d ^^^ unitAt 7 j) = (d, columnH j)) ∧
  (∀ y : Syndrome, ((List.range 128).filter fun n => syndrome (BitVec.ofNat 7 n) == y).length = 16)

/-! ## The composer -/

/-- R61: the partition of a frame into groups, in sequence and in bus index, which groups are payload and which remainder, and its
inverse. -/
def Obligations.FramePartition : Prop :=
  (∀ (f : Frame) (k j : Nat), k < 6 → j < 4 →
    (frameGroup f k).getMsbD j = f.getMsbD (4 * k + j) ∧ (frameGroup f k).getLsbD j = f.getLsbD (20 - 4 * k + j)) ∧
  (∀ (p : Payload) (r : Remainder) (k j : Nat), k < 4 → j < 4 →
    (frameGroup (p ++ r : Frame) k).getMsbD j = p.getMsbD (4 * k + j)) ∧
  (∀ (p : Payload) (r : Remainder), frameGroup (p ++ r : Frame) 4 = r.extractLsb' 4 4 ∧
    frameGroup (p ++ r : Frame) 5 = r.extractLsb' 0 4) ∧
  (∀ f : Frame, concatGroups (frameGroup f) = f) ∧
  (∀ (g : Nat → DataGroup) (k : Nat), k < 6 → frameGroup (concatGroups g) k = g k)

/-- R63: the layout of a codeword, in sequence and in bus index: block k carries group k, its first four bits being the group's own. -/
def Obligations.CodewordLayout : Prop :=
  (∀ (cw : Codeword) (k j : Nat), k < 6 → j < 7 →
    (cwBlock cw k).getMsbD j = cw.getMsbD (7 * k + j) ∧ (cwBlock cw k).getLsbD j = cw.getLsbD (35 - 7 * k + j)) ∧
  (∀ cw : Codeword, concatBlocks (cwBlock cw) = cw) ∧
  (∀ (f : Frame) (k j : Nat), k < 6 → j < 7 →
    (encodeFrame f).getMsbD (7 * k + j) = (hammingEncode (frameGroup f k)).getMsbD j) ∧
  (∀ (f : Frame) (k j : Nat), k < 6 → j < 4 →
    (encodeFrame f).getMsbD (7 * k + j) = f.getMsbD (4 * k + j))

/-- R62, ENC16: encoding, result and final R, the six blocks, the zero payload, the payload read back without decoding,
the example as a step. -/
def Obligations.Enc16EncodesPayload : Prop :=
  (∀ din : Bus, decode (requestWord 0x8#4 din) = .ok (.enc16 (din.extractLsb' 0 16))) ∧
  (∀ (p : Payload) (s : State), exec (.enc16 p) s =
    .next { s with crcR := crcRun p, resp := some (response (.ok (encode16 p))) }) ∧
  (∀ (p : Payload) (k : Nat), k < 6 →
    cwBlock (encode16 p) k = matvec 7 4 matGt (frameGroup (p ++ crcRun p : Frame) k)) ∧
  encode16 0x0000#16 = 0#42 ∧
  (∀ (p : Payload) (k i : Nat), k < 4 → i < 4 → p.getMsbD (4 * k + i) = (encode16 p).getMsbD (7 * k + i)) ∧
  (∀ s : State, s.req = some 0x20000000A5C3#46 →
    step s = .next { s with req := none, crcR := 0x1E#8, resp := some 0x292DC6705F4#44 })

/-- What R54 and R62 mark derived: the Hamming encoder is linear and injective, and so is `encode16` linear. -/
def Obligations.EncodersAreLinear : Prop :=
  (∀ a b : DataGroup, hammingEncode (a ^^^ b) = hammingEncode a ^^^ hammingEncode b) ∧
  (∀ a b : DataGroup, hammingEncode a = hammingEncode b → a = b) ∧
  (∀ a b : Payload, encode16 (a ^^^ b) = encode16 a ^^^ encode16 b)

/-- R64, DEC42: encoding, result and final R for every received word, the gate, the corner cases, and the three examples as steps. -/
def Obligations.Dec42DecodesOrFails : Prop :=
  (∀ din : Bus, decode (requestWord 0x9#4 din) = .ok (.dec42 din)) ∧
  (∀ (cw : Codeword) (s : State), exec (.dec42 cw) s =
    .next { s with crcR := crcRun (reassemble cw),
                   resp := some (if crcRun (reassemble cw) = 0x00#8
                     then response (.ok (seqSlice (reassemble cw) 0 16)) else 0x40000000000#44) }) ∧
  (∀ (cw : Codeword) (k : Nat), k < 6 → frameGroup (reassemble cw) k = (hammingDecode (cwBlock cw k)).1) ∧
  decode42 0#42 = .ok 0x0000#16 ∧
  (∀ p : Payload, decode42 (encode16 p) = .ok p) ∧
  (∀ (p : Payload) (k j : Nat), k < 6 → 4 ≤ j → j < 7 →
    reassemble (encode16 p ^^^ unitAt 42 (7 * k + j)) = (p ++ crcRun p : Frame)) ∧
  (decode42 0x130B4C5E2DA#42 = .err .uncorrectableError ∧
    seqSlice (reassemble 0x130B4C5E2DA#42) 0 16 = 0x4142#16) ∧
  (decode42 0x1#42 = .ok 0x0000#16 ∧ decode42 0x2#42 = .ok 0x0000#16 ∧ decode42 0x3#42 = .err .uncorrectableError) ∧
  (∀ (p q : Payload) (e : Codeword),
    decode42 (encode16 p ^^^ e) = .err .uncorrectableError ↔ decode42 (encode16 q ^^^ e) = .err .uncorrectableError) ∧
  (∀ s : State, s.req = some 0x2692DC6705F4#46 →
    step s = .next { s with req := none, crcR := 0x00#8, resp := some 0x0000000A5C3#44 }) ∧
  (∀ s : State, s.req = some 0x2693DC6705F4#46 →
    step s = .next { s with req := none, crcR := 0x00#8, resp := some 0x0000000A5C3#44 }) ∧
  (∀ s : State, s.req = some 0x2692D06705F4#46 →
    step s = .next { s with req := none, crcR := 0xBA#8, resp := some 0x40000000000#44 })

/-- R38 (the spec marks it derived): the three expansions of an operation into others, and HENC as MVGT, on the responses. -/
def Obligations.ExpansionIdentities : Prop :=
  (∀ d : DataGroup, respondInstr (.henc d) = respondInstr (.mvgt d)) ∧
  (∀ p : Payload, (doutField (respondInstr (.crcenc p))).extractLsb' 0 24 =
    p ++ (doutField (respondInstr (.crc8 p))).extractLsb' 0 8) ∧
  (∀ p : Payload, ∀ f : Frame, f = (doutField (respondInstr (.crcenc p))).extractLsb' 0 24 →
    doutField (respondInstr (.enc16 p)) =
      concatBlocks fun k => (doutField (respondInstr (.henc (seqSlice f (4 * k) 4)))).extractLsb' 0 7) ∧
  (∀ cw : Codeword, ∀ f : Frame,
    f = concatGroups (fun k => (doutField (respondInstr (.hdec (seqSlice cw (7 * k) 7)))).extractLsb' 3 4) →
    respondInstr (.dec42 cw) =
      if doutField (respondInstr (.crcvfy f)) = 1#42 then response (.ok (seqSlice f 0 16))
      else response (Result.err .uncorrectableError : Result 16))

/-- R66 (a): `decode42(encode16(p)) == Ok(p)` for all 16-bit payloads p. -/
def Obligations.ComposedRoundTrip : Prop := ∀ p : Payload, decode42 (encode16 p) = .ok p

/-- R66 (b) and (c): up to six flipped bits, no two in the same block, are all corrected, for every payload. -/
def Obligations.OneErrorPerBlockIsCorrected : Prop :=
  ∀ (p : Payload) (e : Codeword), (∀ k, k < 6 → weight (cwBlock e k) ≤ 1) → decode42 (encode16 p ^^^ e) = .ok p

/-- R67 (b) (the spec marks it derived), which sharpens R66 (d): two or more flips in one block, the others clean, are always rejected. -/
def Obligations.ErrorsInOneBlockAreRejected : Prop :=
  ∀ (p : Payload) (e : Codeword) (k : Nat), k < 6 → 2 ≤ weight (cwBlock e k) →
    (∀ j, j < 6 → j ≠ k → cwBlock e j = 0#7) → decode42 (encode16 p ^^^ e) = .err .uncorrectableError

/-- R67 (a) (the spec marks it derived): the outcome depends on the error alone: some frame error e', a function of e, decides for every payload. -/
def Obligations.OutcomeDependsOnErrorAlone : Prop :=
  ∀ e : Codeword, ∃ e' : Frame, ∀ p : Payload,
    reassemble (encode16 p ^^^ e) = (p ++ crcRun p : Frame) ^^^ e' ∧
    decode42 (encode16 p ^^^ e) =
      if crcRun e' = 0x00#8 then .ok (p ^^^ seqSlice e' 0 16) else .err .uncorrectableError

/-- R67 (c) (the spec marks it derived): two blocks with two flips each, the others clean, are always rejected. -/
def Obligations.TwoDoubleErrorsAreRejected : Prop :=
  ∀ (p : Payload) (e : Codeword) (k l : Nat), k < 6 → l < 6 → k ≠ l →
    weight (cwBlock e k) = 2 → weight (cwBlock e l) = 2 → (∀ j, j < 6 → j ≠ k → j ≠ l → cwBlock e j = 0#7) →
    decode42 (encode16 p ^^^ e) = .err .uncorrectableError

/-- R67 (e) (the spec marks it derived): up to four flips a wrong payload is never accepted, and five flips can make one accepted: the example from the all-zero
codeword. -/
def Obligations.WrongPayloadNeedsFiveFlips : Prop :=
  (∀ (p : Payload) (e : Codeword), weight e ≤ 4 →
    decode42 (encode16 p ^^^ e) = .ok p ∨ decode42 (encode16 p ^^^ e) = .err .uncorrectableError) ∧
  weight (0x00000024038 : Codeword) = 5 ∧ decode42 (encode16 0x0000#16 ^^^ 0x00000024038#42) = .ok 0x0001#16

/-- R71: `UncorrectableError` is the response exactly to a DEC42 whose reassembled frame fails the check, from every state. -/
def Obligations.UncorrectableErrorExactlyOnFailedGate : Prop :=
  ∀ (s t : State) (w : RequestWord) (r : ResponseWord), s.req = some w → step s = .next t → t.resp = some r →
    (statusField r = 1#2 ↔ opField w = 0x9#4 ∧ crcRun (reassemble (dinField w)) ≠ 0x00#8)

/-- R76: reporting an error is no trap: the response's dout is all zero, and of the rest only R may change, under the run DEC42 made. -/
def Obligations.ErrorResponseCarriesNoData : Prop :=
  ∀ (s t : State) (w : RequestWord) (r : ResponseWord), s.req = some w → step s = .next t → t.resp = some r →
    statusField r ≠ 0#2 →
    doutField r = 0#42 ∧ t.req = none ∧ (statusField r = 2#2 → t.crcR = s.crcR) ∧
    (statusField r = 1#2 → t.crcR = crcRun (reassemble (dinField w)))

/-! ## Text -/

/-- R37 with R70 and R72: the text of a request is read back as that request; an operand text of another length, or with a symbol that
is no bit, is the caller's boundary error and no request. That a text which fails both checks is named `invalidLength` is the
model's choice (log entry 15, DESIGN CHOICE): the spec does not say which error is named when both apply. -/
def Obligations.RequestTextRoundTrip : Prop :=
  (∀ i : Instr, parseRequest (requestText i) = some (.ok i)) ∧
  (∀ (k : Nat) (text : List Char), text.length ≠ k → parseBits k text = .error .invalidLength) ∧
  (∀ (k : Nat) (text : List Char), text.length = k → (∃ c ∈ text, c ≠ '0' ∧ c ≠ '1') →
    parseBits k text = .error .invalidCharacter)
end

