-- ==== Sys2Proof/Laws/Instances.lean ====
section
/-! SUPPORT. Laws/Instances.lean: what a move of one instance does to a bank. -/
namespace Sys2Proof.Machine

/-- A move that answers a next state changes the moved instance and no other. -/
theorem Bank.moveAt_next {n : Nat} (k : Fin n) (move : State → Host.Outcome State Fault Refusal) (b : Bank n) (s : State)
    (h : move b[k] = .next s) : b.moveAt k move = .next (b.set k s) := by
  unfold Bank.moveAt
  rw [h]

/-- A bank changes only if the move of the instance answers a next state. -/
theorem Bank.moveAt_cases {n : Nat} {k : Fin n} {move : State → Host.Outcome State Fault Refusal} {b b' : Bank n}
    (h : b.moveAt k move = .next b') : ∃ s, move b[k] = .next s ∧ b' = b.set k s := by
  unfold Bank.moveAt at h
  split at h
  · next s hs => exact ⟨s, hs, by simpa using h.symm⟩
  · cases h
  · cases h

end Sys2Proof.Machine
end

