-- ==== Sys2Proof/Laws/Operands.lean ====
section
/-! SUPPORT. Laws/Operands.lean: what the sequence-index operations and the response word give. -/
namespace Sys2Proof.Machine

/-- `ofSeq` puts `f i` at sequence index i (00_scope.md R7). -/
theorem getMsbD_ofSeq (m : Nat) (f : Nat → Bool) (i : Nat) :
    (ofSeq m f).getMsbD i = (decide (i < m) && f i) := by
  induction m generalizing f i with
  | zero => simp [ofSeq]
  | succ m ih =>
    rcases i with _ | i
    · simp [ofSeq, BitVec.getMsbD, BitVec.getElem_cons]
    · have h := ih (fun j => f (j + 1)) i
      simp only [BitVec.getMsbD] at h
      by_cases hi : i < m
      · have e : m - (i + 1) = m - 1 - i := by omega
        simp only [ofSeq, BitVec.getMsbD, BitVec.getLsbD_cons, Nat.add_sub_cancel, e, hi, Nat.succ_lt_succ hi,
          decide_true, Bool.true_and] at h ⊢
        rw [if_neg (by omega)]
        exact h
      · simp [ofSeq, BitVec.getMsbD, hi]

/-- A vector is the sequence of its own bits. -/
theorem ofSeq_getMsbD {k : Nat} (v : BitVec k) : ofSeq k v.getMsbD = v :=
  BitVec.eq_of_getMsbD_eq fun i hi => by simp [getMsbD_ofSeq, hi]

/-- A slice reads the elements i to i+len-1 (00_scope.md R7). -/
theorem getMsbD_seqSlice {k : Nat} (v : BitVec k) (i len j : Nat) (h : i + len ≤ k) :
    (seqSlice v i len).getMsbD j = (decide (j < len) && v.getMsbD (i + j)) := by
  by_cases hj : j < len
  · have e : k - (k - i - len + len - j) = i + j := by omega
    have e2 : k - i - len + len - j ≤ k := by omega
    simp [seqSlice, hj, e, e2]
  · simp [seqSlice, hj]

@[simp] theorem length_seqBits {k : Nat} (v : BitVec k) : (seqBits v).length = k := by simp [seqBits]

/-- The sequence of a concatenation is the left part's, then the right part's (00_scope.md R7). -/
theorem seqBits_append {m n : Nat} (a : BitVec m) (b : BitVec n) : seqBits (a ++ b) = seqBits a ++ seqBits b := by
  refine List.ext_getElem (by simp) fun i h _ => ?_
  simp only [length_seqBits] at h
  by_cases hi : i < m
  · simp [seqBits, BitVec.getMsbD_append, hi]
  · simp [seqBits, BitVec.getMsbD_append, List.getElem_append, hi]

/-- The only 1 of a unit vector stands at its index. -/
theorem getMsbD_unitAt (k j i : Nat) : (unitAt k j).getMsbD i = (decide (i < k) && (i == j)) :=
  getMsbD_ofSeq k _ i

/-- The status of a response word is that of its result. -/
@[simp] theorem statusField_response {k : Nat} (r : Result k) : statusField (response r) = statusOf r :=
  BitVec.extractLsb'_append_eq_left

/-- The dout of a response word is that of its result. -/
@[simp] theorem doutField_response {k : Nat} (r : Result k) : doutField (response r) = doutOf r :=
  BitVec.extractLsb'_append_eq_right

end Sys2Proof.Machine
end

