-- ==== Sys2Proof/Laws/State.lean ====
section
/-! SUPPORT. Laws/State.lean: one lemma per field per update of State. -/
namespace Sys2Proof.Machine

@[simp] theorem reset_crcR : State.reset.crcR = 0#8 := rfl
@[simp] theorem reset_req : State.reset.req = none := rfl
@[simp] theorem reset_resp : State.reset.resp = none := rfl

@[simp] theorem accept_crcR (s : State) : (accept s).crcR = s.crcR := rfl
@[simp] theorem accept_req (s : State) : (accept s).req = none := rfl
@[simp] theorem accept_resp (s : State) : (accept s).resp = s.resp := rfl

@[simp] theorem deliver_crcR (r : ResponseWord) (s : State) : (deliver r s).crcR = s.crcR := rfl
@[simp] theorem deliver_req (r : ResponseWord) (s : State) : (deliver r s).req = s.req := rfl
@[simp] theorem deliver_resp (r : ResponseWord) (s : State) : (deliver r s).resp = some r := rfl

@[simp] theorem loadCrc_crcR (s : State) : (loadCrc s).crcR = Config.crcInit := rfl
@[simp] theorem loadCrc_req (s : State) : (loadCrc s).req = s.req := rfl
@[simp] theorem loadCrc_resp (s : State) : (loadCrc s).resp = s.resp := rfl

@[simp] theorem shiftCrc_crcR (s : State) (b : Bool) : (shiftCrc s b).crcR = crcStep s.crcR b := rfl
@[simp] theorem shiftCrc_req (s : State) (b : Bool) : (shiftCrc s b).req = s.req := rfl
@[simp] theorem shiftCrc_resp (s : State) (b : Bool) : (shiftCrc s b).resp = s.resp := rfl

@[simp] theorem withFetchWord_crcR (s : State) (n w : Nat) : (s.withFetchWord n w).crcR = s.crcR := rfl
@[simp] theorem withFetchWord_req (s : State) (n w : Nat) : (s.withFetchWord n w).req = some (tableWord n w) := rfl
@[simp] theorem withFetchWord_resp (s : State) (n w : Nat) : (s.withFetchWord n w).resp = s.resp := rfl

end Sys2Proof.Machine
end

