-- ==== Sys2Proof/Laws/Ops.lean ====
section
/-! SUPPORT. Laws/Ops.lean: one lemma per shared operation, which says everything it does. -/
namespace Sys2Proof.Machine

/-- Shifting bits in writes R and nothing else. -/
theorem foldl_shiftCrc (bits : List Bool) (s : State) :
    bits.foldl shiftCrc s = { s with crcR := bits.foldl crcStep s.crcR } := by
  induction bits generalizing s with
  | nil => rfl
  | cons b bits ih => simp [ih, shiftCrc]

/-- A run in the register leaves the run's value in R, whatever R held, and changes nothing else (10_state.md R14). -/
theorem runCrc_eq {n : Nat} (v : BitVec n) (s : State) : runCrc v s = { s with crcR := crcRun v } := by
  simp [runCrc, foldl_shiftCrc, loadCrc, crcRun]

/-- An answer writes the response port and nothing else. -/
theorem answer_eq {k : Nat} (r : Result k) (s : State) :
    answer r s = .next { s with resp := some (response r) } := rfl

/-- Reporting an error writes the response port and nothing else (60_exceptions.md R76). -/
theorem raise_eq (e : ErrorKind) (s : State) :
    raise e s = .next { s with resp := some (response (Result.err e : Result 0)) } := rfl

/-- A run over a concatenation goes on from the run over its left part. -/
theorem crcRun_append {m n : Nat} (a : BitVec m) (b : BitVec n) :
    crcRun (a ++ b) = (seqBits b).foldl crcStep (crcRun a) := by
  simp [crcRun, seqBits_append]

/-- The XOR of n zero terms. -/
@[simp] theorem xorSum_false (n : Nat) : (xorSum n fun _ => false) = false := by
  induction n with
  | zero => rfl
  | succ n ih => simp [xorSum, ih]

/-- XOR sums add term by term (00_scope.md R8). -/
theorem xorSum_xor (n : Nat) (t u : Nat → Bool) :
    (xorSum n fun c => t c ^^ u c) = (xorSum n t ^^ xorSum n u) := by
  induction n with
  | zero => rfl
  | succ n ih => simp [xorSum, ih, Bool.xor_left_comm]

/-- Only the first n terms count. -/
theorem xorSum_congr {n : Nat} {t u : Nat → Bool} (h : ∀ c, c < n → t c = u c) : xorSum n t = xorSum n u := by
  induction n with
  | zero => rfl
  | succ n ih => simp [xorSum, ih fun c hc => h c (by omega), h n (by omega)]

/-- Element r of a product is the XOR over the columns (40_gf2_matvec.md R40). -/
theorem getMsbD_matvec (m n : Nat) (M : Matrix) (v : BitVec n) (r : Nat) :
    (matvec m n M v).getMsbD r = (decide (r < m) && xorSum n fun c => M r c && v.getMsbD c) :=
  getMsbD_ofSeq m _ r

/-- The decoder looks at `op` alone to choose the operation. -/
theorem opField_requestWord (op : Opcode) (din : Bus) : opField (requestWord op din) = op :=
  BitVec.extractLsb'_append_eq_left

theorem dinField_requestWord (op : Opcode) (din : Bus) : dinField (requestWord op din) = din :=
  BitVec.extractLsb'_append_eq_right

/-- A request word is its two fields. -/
theorem requestWord_fields (w : RequestWord) : requestWord (opField w) (dinField w) = w :=
  BitVec.extractLsb'_append_extractLsb'_eq_extractLsb' (by rfl) |>.trans (by simp)

end Sys2Proof.Machine
end

