-- ==== Sys2Proof/Laws/PerInstr.lean ====
section
/-! SUPPORT. Laws/PerInstr.lean: facts about every instruction as syntax, one lemma per constructor. -/

/-- The operand fits its field, and the encoder puts `op` and the operand where 30_encoding.md R30 says. -/
def Sys2Proof.Laws.EncodedFields.Statement (i : Sys2Proof.Instr) : Prop :=
  i.wellFormed = true ∧ Sys2Proof.opField (Sys2Proof.encode i) = i.opcode ∧
    Sys2Proof.dinField (Sys2Proof.encode i) = i.din

namespace Sys2Proof.Laws.EncodedFields

/-- The two fields of an encoding, of any instruction. -/
theorem fields (i : Instr) : opField (encode i) = i.opcode ∧ dinField (encode i) = i.din :=
  ⟨Machine.opField_requestWord _ _, Machine.dinField_requestWord _ _⟩

/-- An operand of k ≤ 42 bits fits. -/
theorem fits {k : Nat} (v : BitVec k) (h : k ≤ 42) : (decide (v.toNat < 2 ^ k) && decide (k ≤ 42)) = true := by
  simp [h, v.isLt]

theorem mvgt (v : DataGroup) : Statement (.mvgt v) := ⟨fits v (by decide), fields _⟩
theorem mvh (v : Block) : Statement (.mvh v) := ⟨fits v (by decide), fields _⟩
theorem crc8 (p : Payload) : Statement (.crc8 p) := ⟨fits p (by decide), fields _⟩
theorem crcenc (p : Payload) : Statement (.crcenc p) := ⟨fits p (by decide), fields _⟩
theorem crcvfy (f : Frame) : Statement (.crcvfy f) := ⟨fits f (by decide), fields _⟩
theorem henc (d : DataGroup) : Statement (.henc d) := ⟨fits d (by decide), fields _⟩
theorem hdec (v : Block) : Statement (.hdec v) := ⟨fits v (by decide), fields _⟩
theorem enc16 (p : Payload) : Statement (.enc16 p) := ⟨fits p (by decide), fields _⟩
theorem dec42 (cw : Codeword) : Statement (.dec42 cw) := ⟨fits cw (by decide), fields _⟩

end Sys2Proof.Laws.EncodedFields
end

