-- ==== Sys2Proof/Tests/Slice0.lean ====
section
/-! SUPPORT. Tests/Slice0.lean: one-step tests on the vectors of 95_test_vectors.md, hand-written encodings, the ill-formed
operand texts, and the witnesses. Expected values are the spec's. -/
namespace Sys2Proof.Tests
open Sys2Proof.Machine

/-- The response of one step from reset with the table word w placed. -/
def answerTo (w : Nat) : Option ResponseWord :=
  match step (State.reset.withFetchWord 48 w) with
  | .next t => t.resp
  | _ => none

/-- R after one step from reset with the table word w placed. -/
def registerAfter (w : Nat) : Option Remainder :=
  match step (State.reset.withFetchWord 48 w) with
  | .next t => some t.crcR
  | _ => none

/-! ### Ill-formed operand texts (60_exceptions.md R70, R72) -/

theorem test_short_operand_refused : operandTextError 4 ['1', '0', '1'] = some .invalidLength := by decide
theorem test_long_operand_refused : operandTextError 4 ['1', '0', '1', '0', '0'] = some .invalidLength := by decide
theorem test_nonbinary_operand_refused : operandTextError 4 ['1', '0', '2', '0'] = some .invalidCharacter := by decide
theorem test_good_operand_passes : operandTextError 4 ['1', '0', '1', '0'] = none := by decide
theorem test_wellFormed_henc : (Instr.henc 0xA#4).wellFormed = true := by decide

/-! ### Words written out bit by bit from 30_encoding.md R30 and R33 decode to their operation -/

theorem test_decode_mvgt :
    decode 0b0001000000000000000000000000000000000000001010#46 = .ok (.mvgt 0b1010#4) := by decide
theorem test_decode_mvh :
    decode 0b0010000000000000000000000000000000000001010110#46 = .ok (.mvh 0b1010110#7) := by decide
theorem test_decode_crc8 :
    decode 0b0011000000000000000000000000001010010111000011#46 = .ok (.crc8 0b1010010111000011#16) := by decide
theorem test_decode_crcenc :
    decode 0b0100000000000000000000000000001010010111000011#46 = .ok (.crcenc 0b1010010111000011#16) := by decide
theorem test_decode_crcvfy :
    decode 0b0101000000000000000000101001011100001100011110#46 =
      .ok (.crcvfy 0b101001011100001100011110#24) := by decide
theorem test_decode_henc :
    decode 0b0110000000000000000000000000000000000000001010#46 = .ok (.henc 0b1010#4) := by decide
theorem test_decode_hdec :
    decode 0b0111000000000000000000000000000000000001010110#46 = .ok (.hdec 0b1010110#7) := by decide
theorem test_decode_enc16 :
    decode 0b1000000000000000000000000000001010010111000011#46 = .ok (.enc16 0b1010010111000011#16) := by decide
theorem test_decode_dec42 :
    decode 0b1001101001001011011100011001110000010111110100#46 =
      .ok (.dec42 0b101001001011011100011001110000010111110100#42) := by decide
theorem test_decode_zero_reserved : decode 0x000000000000#46 = .error (.reservedOp 0x0#4) := by decide
theorem test_decode_ten_reserved : decode 0x280000000000#46 = .error (.reservedOp 0xA#4) := by decide
theorem test_decode_fifteen_reserved : decode 0x3FFFFFFFFFFF#46 = .error (.reservedOp 0xF#4) := by decide

/-! ### One step on a request of 95_test_vectors.md V2 to V10 -/

theorem test_mvgt_ignores_upper_bits : answerTo 0x04000000001A = some 0x00000000052#44 := by decide
theorem test_mvh_two_ones : answerTo 0x080000000060 = some 0x00000000003#44 := by decide
theorem test_mvh_column_zero : answerTo 0x080000000040 = some 0x00000000005#44 := by decide
theorem test_crc8_example : answerTo 0x0C000000A5C3 = some 0x0000000001E#44 := by decide +kernel
theorem test_crc8_first_bit : answerTo 0x0FFFFFFF8000 = some 0x000000000B6#44 := by decide +kernel
theorem test_crcenc_example : answerTo 0x10000000A5C3 = some 0x00000A5C31E#44 := by decide +kernel
theorem test_crcenc_generator : answerTo 0x100000000107 = some 0x00000010700#44 := by decide +kernel
theorem test_crcvfy_valid : answerTo 0x17FFFFA5C31E = some 0x00000000001#44 := by decide +kernel
theorem test_crcvfy_invalid : answerTo 0x140000A5C31F = some 0x00000000000#44 := by decide +kernel
theorem test_henc_example : answerTo 0x18000000000A = some 0x00000000052#44 := by decide
theorem test_henc_asymmetric : answerTo 0x180000000001 = some 0x0000000000B#44 := by decide
theorem test_hdec_example : answerTo 0x1C0000000056 = some 0x00000000054#44 := by decide
theorem test_hdec_two_errors : answerTo 0x1C0000000003 = some 0x0000000000B#44 := by decide
theorem test_enc16_example : answerTo 0x20000000A5C3 = some 0x292DC6705F4#44 := by decide +kernel
theorem test_enc16_ones : answerTo 0x20000000FFFF = some 0x3FFFFFFCBA6#44 := by decide +kernel
theorem test_dec42_one_error_each : answerTo 0x2732B6C7E0BB = some 0x00000004142#44 := by decide +kernel
theorem test_dec42_two_errors_one_block : answerTo 0x2692D06705F4 = some 0x40000000000#44 := by decide +kernel
theorem test_dec42_wrong_payload : answerTo 0x240000024038 = some 0x00000000001#44 := by decide +kernel
theorem test_reserved_zero : answerTo 0x000000000123 = some 0x80000000000#44 := by decide
theorem test_reserved_fifteen : answerTo 0x3FFFFFFFFFFF = some 0x80000000000#44 := by decide

/-! ### The register R at the end of a run (95_test_vectors.md V4) -/

theorem test_register_crcvfy_invalid : registerAfter 0x140000A5131E = some 0xBA#8 := by decide +kernel
theorem test_register_dec42 : registerAfter 0x26CF4CDFC5D2 = some 0x18#8 := by decide +kernel
theorem test_trace_a5c3 : crcTrace 0xA5C3#16 =
    [0x07#8, 0x0E#8, 0x1B#8, 0x36#8, 0x6C#8, 0xDF#8, 0xB9#8, 0x72#8, 0xE3#8, 0xC6#8, 0x8B#8, 0x11#8, 0x22#8, 0x44#8,
      0x8F#8, 0x1E#8] := by decide +kernel

/-- The check value of 95_test_vectors.md V5 (93_implementation_defined.md G1). -/
theorem test_crc_check_value : crcRun 0x313233343536373839#72 = 0xF4#8 := by decide +kernel

/-! ### Text (30_encoding.md R37) -/

theorem test_text_henc :
    requestText (.henc 0b1010#4) = ['H', 'E', 'N', 'C', ' ', '1', '0', '1', '0'] := by decide
theorem test_text_hdec_response :
    responseText (.hdec 0b1010110#7) 0x00000000054#44 =
      some ['O', 'k', '(', '1', '0', '1', '0', ',', ' ', '1', '0', '0', ')'] := by decide
theorem test_text_hex :
    parseRequest ['C', 'R', 'C', '8', ' ', '0', 'x', 'A', '5', 'C', '3'] = some (.ok (.crc8 0xA5C3#16)) := by decide

/-! ## Witnesses: for every statement of Certificates/Slice0/Obligations.lean that has hypotheses, a concrete state and operands
that meet them together; for a statement of several clauses, one for each, at a boundary where it has one -/

/-- Idle, the error of a failed DEC42 on the response port, R as that run left it (95_test_vectors.md P3). -/
def afterError : State := { crcR := 0x18#8, req := none, resp := some 0x40000000000#44 }

/-- A request held, an old response still on the port, R not zero. -/
def holding (w : RequestWord) : State := { crcR := 0xFF#8, req := some w, resp := some 0x00000000052#44 }

/-! ### The step and the ports -/

theorem wit_StepKeepsResponseInvariant :
    (holding 0x26CF4CDFC5D2#46).inv = true ∧ ∃ t, step (holding 0x26CF4CDFC5D2#46) = .next t :=
  ⟨by decide, _, rfl⟩

theorem wit_StepRunsDecodedOperation :
    (holding 0x18000000000A#46).req = some 0x18000000000A#46 ∧ decode 0x18000000000A#46 = .ok (.henc 0xA#4) := by decide

theorem wit_IdleStepChangesNothing : afterError.req = none := rfl

theorem wit_EveryRequestIsAnswered : (holding 0x3FFFFFFFFFFF#46).req = some 0x3FFFFFFFFFFF#46 := rfl

theorem wit_StepAnswersAsPureFunction : (holding 0x0C000000A5C3#46).req = some 0x0C000000A5C3#46 := rfl

theorem wit_SessionAnswersAsPureFunction : afterError.req = none := rfl

theorem wit_ErrorLeavesNothingBehind :
    ∃ r t, serve 0x000000000123#46 afterError = some (r, t) ∧ statusField r ≠ 0#2 :=
  ⟨_, _, rfl, by decide⟩

theorem wit_CrcRegisterIsOperationLocal_crc :
    (∃ t, exec (.crc8 0xA5C3#16) afterError = .next t) ∧ usesCrc (.crc8 0xA5C3#16) = true := ⟨⟨_, rfl⟩, rfl⟩

theorem wit_CrcRegisterIsOperationLocal_other :
    (∃ t, exec (.henc 0xA#4) afterError = .next t) ∧ usesCrc (.henc 0xA#4) = false := ⟨⟨_, rfl⟩, rfl⟩

theorem wit_OperationFrame :
    (∃ t, exec (.mvh 0x56#7) afterError = .next t) ∧ usesCrc (.mvh 0x56#7) = false := ⟨⟨_, rfl⟩, rfl⟩

theorem wit_RequestsAcceptedOnlyWhenIdle_idle : State.reset.req = none := rfl
theorem wit_RequestsAcceptedOnlyWhenIdle_busy : (holding 0#46).req = some 0#46 := rfl
theorem wit_RequestsAcceptedOnlyWhenIdle_step : ∃ t, step (holding 0#46) = .next t := ⟨_, rfl⟩

/-- Two busy instances. -/
def twoBusy : Bank 2 := #v[holding 0x18000000000A#46, holding 0x0C000000A5C3#46]

theorem wit_InstanceStepsCommute :
    (0 : Fin 2) ≠ 1 ∧ ∃ b1 b2, twoBusy.stepAt 0 = .next b1 ∧ b1.stepAt 1 = .next b2 :=
  ⟨by decide, _, _, rfl, rfl⟩

/-! ### Encoding -/

theorem wit_EncodeDecodeClearsIgnoredBits : decode 0x0800000000D6#46 = .ok (.mvh 0x56#7) := by decide

theorem wit_ReservedOpAnswersIllegalOp_zero :
    (holding 0x000000000123#46).req = some 0x000000000123#46 ∧ opField 0x000000000123#46 = 0x0#4 := by decide
theorem wit_ReservedOpAnswersIllegalOp_ten :
    (holding 0x280000000000#46).req = some 0x280000000000#46 ∧ 0xA#4 ≤ opField 0x280000000000#46 := by decide
theorem wit_ReservedOpAnswersIllegalOp_fifteen :
    (holding 0x3FFFFFFFFFFF#46).req = some 0x3FFFFFFFFFFF#46 ∧ 0xA#4 ≤ opField 0x3FFFFFFFFFFF#46 := by decide
theorem wit_ReservedOp_excludes_nine : ¬(opField 0x240000000000#46 = 0x0#4 ∨ 0xA#4 ≤ opField 0x240000000000#46) := by decide

theorem wit_IgnoredBitsDoNotMatter :
    decode 0x080000000056#46 = .ok (.mvh 0x56#7) ∧ opField 0x0800000000D6#46 = opField 0x080000000056#46 ∧
      ∀ j, j < (Instr.mvh 0x56#7).operandWidth → (0x0800000000D6#46).getLsbD j = (0x080000000056#46).getLsbD j := by decide

theorem wit_ResponseFormat_width : (42 : Nat) ≤ 42 ∧ (41 : Nat) < 42 := by decide
theorem wit_ResponseFormat_uncorrectable :
    statusField (respond 0x26CF4CDFC5D2#46) = 1#2 ∧ statusField (respond 0x26CF4CDFC5D2#46) ≠ 0#2 := by decide +kernel
theorem wit_ResponseFormat_illegal : statusField (respond 0x280000000000#46) = 2#2 := by decide

theorem wit_OperandAndResultAssembly : (42 : Nat) ≤ 42 ∧ (0 : Nat) < 42 ∧ (41 : Nat) < 42 ∧ (42 : Nat) ≤ 42 := by decide

/-! ### Matrix-vector product and CRC engine -/

theorem wit_MatvecIsGf2Product : (6 : Nat) < 7 ∧ (0 : Nat) < 7 := by decide
theorem wit_MatvecLaws_unit : (3 : Nat) < 4 := by decide

theorem wit_MvgtMultipliesByTransposedGenerator_example :
    (holding 0x04000000000A#46).req = some 0x04000000000A#46 ∧
      (0b1010010#7 : Block) = matvec 7 4 matGt 0b1010#4 := by decide
theorem wit_MvhMultipliesByParityCheck_example :
    (holding 0x080000000056#46).req = some 0x080000000056#46 ∧
      (0b100#3 : Syndrome) = matvec 3 7 matH 0b1010110#7 := by decide
theorem wit_Crc8ReturnsPayloadRemainder_example : (holding 0x0C000000A5C3#46).req = some 0x0C000000A5C3#46 := rfl
theorem wit_CrcencAppendsRemainder_example : (holding 0x10000000A5C3#46).req = some 0x10000000A5C3#46 := rfl
theorem wit_CrcvfyReportsFrameValidity_valid : (holding 0x140000A5C31E#46).req = some 0x140000A5C31E#46 := rfl
theorem wit_CrcvfyReportsFrameValidity_invalid : (holding 0x140000A5C31F#46).req = some 0x140000A5C31F#46 := rfl
theorem wit_CrcRunTakesBitsInOrder : (0 : Nat) < 16 ∧ (15 : Nat) < 16 := by decide

theorem wit_CrcDetectsSmallErrors_weight_three :
    crcRun 0xA5C31E#24 = 0x00#8 ∧ (0x800101#24 : Frame) ≠ 0#24 ∧ weight (0x800101#24 : Frame) ≤ 3 := by decide +kernel
theorem wit_CrcDetectsSmallErrors_odd :
    crcRun 0xA5C31E#24 = 0x00#8 ∧ weight (0x80000F#24 : Frame) % 2 = 1 := by decide +kernel
theorem wit_CrcDetectsSmallErrors_burst :
    crcRun 0xA5C31E#24 = 0x00#8 ∧ (0x0000FF#24 : Frame) ≠ 0#24 ∧
      (∀ j, (0x0000FF#24 : Frame).getMsbD j = true → 16 ≤ j ∧ j < 16 + 8) := by
  refine ⟨by decide +kernel, by decide, fun j h => ?_⟩
  have hj : j < 24 := by
    by_contra hn
    simp [BitVec.getMsbD, hn] at h
  have key : ∀ j, j < 24 → (0x0000FF#24 : Frame).getMsbD j = true → 16 ≤ j ∧ j < 16 + 8 := by decide
  exact key j hj h

/-! ### Hamming codec -/

theorem wit_HencEncodesGroup_example :
    (holding 0x18000000000A#46).req = some 0x18000000000A#46 ∧ (0x52#7 : Block) = hammingEncode 0xA#4 := by decide
theorem wit_EncodersAreLinear_injective : hammingEncode 0xA#4 = hammingEncode 0xA#4 := rfl
theorem wit_HammingBlockTable_nonzero : (0x1#4 : DataGroup) ≠ 0#4 := by decide
theorem wit_SyndromeBits : (0b100#3 : Syndrome) = syndrome 0b1010110#7 := by decide
theorem wit_SyndromeDependsOnErrorAlone : (0x52#7 : Block) ∈ hammingBlocks := by decide
theorem wit_ErrorPositionIsMatchingColumn : (0b111#3 : Syndrome) ≠ 0#3 ∧ (2 : Nat) < 7 ∧ columnH 2 = 0b111#3 := by decide

theorem wit_HdecCorrectsOneBit_zero_syndrome : syndrome 0x52#7 = 0#3 ∧ (0x52#7 : Block) ∈ hammingBlocks := by decide
theorem wit_HdecCorrectsOneBit_column : (4 : Nat) < 7 ∧ columnH 4 = syndrome 0x56#7 := by decide
theorem wit_HdecCorrectsOneBit_parity : syndrome 0x56#7 ∈ [0b001#3, 0b010#3, 0b100#3] := by decide
theorem wit_HdecCorrectsOneBit_data : syndrome 0x12#7 ∈ [0b011#3, 0b101#3, 0b110#3, 0b111#3] := by decide
theorem wit_HdecCorrectsOneBit_example : (holding 0x1C0000000056#46).req = some 0x1C0000000056#46 := rfl

theorem wit_MultipleErrorsMiscorrect_two : (0x00#7 : Block) ∈ hammingBlocks ∧ weight (0x03#7 : Block) = 2 := by decide
theorem wit_MultipleErrorsMiscorrect_three :
    (0x00#7 : Block) ∈ hammingBlocks ∧ 3 ≤ weight (0x45#7 : Block) ∧ syndrome (0x00#7 ^^^ 0x45#7) = 0#3 := by decide
theorem wit_MultipleErrorsMiscorrect_near :
    (0x52#7 : Block) ∈ hammingBlocks ∧ weight (0x52#7 ^^^ 0x56#7 : Block) ≤ 1 := by decide
theorem wit_HammingCodeLaws :
    (0x52#7 : Block) ∈ hammingBlocks ∧ weight (0x52#7 ^^^ 0x56#7 : Block) ≤ 1 ∧ (6 : Nat) < 7 := by decide

/-! ### Composer -/

theorem wit_FramePartition : (5 : Nat) < 6 ∧ (3 : Nat) < 4 := by decide
theorem wit_CodewordLayout : (5 : Nat) < 6 ∧ (6 : Nat) < 7 ∧ (3 : Nat) < 4 := by decide
theorem wit_Enc16EncodesPayload :
    (holding 0x20000000A5C3#46).req = some 0x20000000A5C3#46 ∧ (5 : Nat) < 6 ∧ (3 : Nat) < 4 := by decide
theorem wit_Dec42DecodesOrFails_clean : (holding 0x2692DC6705F4#46).req = some 0x2692DC6705F4#46 := rfl
theorem wit_Dec42DecodesOrFails_corrected : (holding 0x2693DC6705F4#46).req = some 0x2693DC6705F4#46 := rfl
theorem wit_Dec42DecodesOrFails_failed : (holding 0x2692D06705F4#46).req = some 0x2692D06705F4#46 := rfl
theorem wit_Dec42DecodesOrFails_parity : (5 : Nat) < 6 ∧ (4 : Nat) ≤ 6 ∧ (6 : Nat) < 7 := by decide
theorem wit_ExpansionIdentities_frame :
    (0xA5C31E#24 : Frame) = (doutField (respondInstr (.crcenc 0xA5C3#16))).extractLsb' 0 24 := by decide +kernel
theorem wit_ExpansionIdentities_data :
    (0xA5C31E#24 : Frame) = concatGroups
      (fun k => (doutField (respondInstr (.hdec (seqSlice 0x292DC6705F4#42 (7 * k) 7)))).extractLsb' 3 4) := by
  decide +kernel

/-- Positions 0, 8, 16, 24, 32 and 41: one in every block (95_test_vectors.md W5). -/
theorem wit_OneErrorPerBlockIsCorrected :
    ∀ k, k < 6 → weight (cwBlock (0x130B4C5E2BA#42 ^^^ 0x332B6C7E0BB#42) k) ≤ 1 := by decide +kernel

/-- Positions 14 and 15: both in block 2 (95_test_vectors.md W2). -/
theorem wit_ErrorsInOneBlockAreRejected :
    2 < 6 ∧ 2 ≤ weight (cwBlock (0x292DC6705F4#42 ^^^ 0x292D06705F4#42) 2) ∧
      (∀ j, j < 6 → j ≠ 2 → cwBlock (0x292DC6705F4#42 ^^^ 0x292D06705F4#42) j = 0#7) := by decide +kernel

/-- Positions 0, 1 and 40, 41. -/
theorem wit_TwoDoubleErrorsAreRejected :
    0 < 6 ∧ 5 < 6 ∧ 0 ≠ 5 ∧ weight (cwBlock 0x30000000003#42 0) = 2 ∧ weight (cwBlock 0x30000000003#42 5) = 2 ∧
      (∀ j, j < 6 → j ≠ 0 → j ≠ 5 → cwBlock 0x30000000003#42 j = 0#7) := by decide +kernel

theorem wit_WrongPayloadNeedsFiveFlips : weight (0x30000000003#42 : Codeword) ≤ 4 := by decide +kernel

theorem wit_UncorrectableErrorExactlyOnFailedGate :
    ∃ t r, (holding 0x26CF4CDFC5D2#46).req = some 0x26CF4CDFC5D2#46 ∧
      step (holding 0x26CF4CDFC5D2#46) = .next t ∧ t.resp = some r :=
  ⟨_, _, rfl, rfl, rfl⟩

theorem wit_ErrorResponseCarriesNoData_uncorrectable :
    ∃ t, (holding 0x26CF4CDFC5D2#46).req = some 0x26CF4CDFC5D2#46 ∧
      step (holding 0x26CF4CDFC5D2#46) = .next t ∧ t.resp = some 0x40000000000#44 ∧
      statusField 0x40000000000#44 ≠ 0#2 ∧ statusField 0x40000000000#44 = 1#2 :=
  ⟨_, rfl, rfl, by decide +kernel, by decide, by decide⟩

theorem wit_ErrorResponseCarriesNoData_illegal :
    ∃ t, (holding 0x280000000000#46).req = some 0x280000000000#46 ∧
      step (holding 0x280000000000#46) = .next t ∧ t.resp = some 0x80000000000#44 ∧
      statusField 0x80000000000#44 ≠ 0#2 ∧ statusField 0x80000000000#44 = 2#2 :=
  ⟨_, rfl, rfl, by decide, by decide, by decide⟩

/-! ### Text -/

theorem wit_RequestTextRoundTrip_length : ['1', '0', '1'].length ≠ 4 := by decide
theorem wit_RequestTextRoundTrip_character :
    ['1', '0', '2', '0'].length = 4 ∧ ∃ c ∈ ['1', '0', '2', '0'], c ≠ '0' ∧ c ≠ '1' :=
  ⟨rfl, '2', by decide⟩

end Sys2Proof.Tests
end

/-! PROOFS. What an operation, a step and a session do to the state: the response is a function of the request word alone, and
the CRC register R is local to an operation (10_state.md rules R10 and R14). -/
namespace Sys2Proof.Machine

/-! ### One operation -/

/-- The value R holds after an operation that found r in it: a run's value where the rules say "State written: R" (R47 to R49,
R62, R64), else r (R41, R42, R53, R57). -/
def crcAfter (i : Instr) (r : Remainder) : Remainder :=
  match i with
  | .mvgt _ | .mvh _ | .henc _ | .hdec _ => r
  | .crc8 p | .crcenc p | .enc16 p => crcRun p
  | .crcvfy f => crcRun f
  | .dec42 cw => crcRun (reassemble cw)

theorem crcAfter_of_usesCrc {i : Instr} (h : usesCrc i = true) (r r' : Remainder) : crcAfter i r = crcAfter i r' := by
  cases i with
  | mvgt | mvh | henc | hdec => cases h
  | crc8 | crcenc | crcvfy | enc16 | dec42 => rfl

theorem crcAfter_of_not_usesCrc {i : Instr} (h : usesCrc i = false) (r : Remainder) : crcAfter i r = r := by
  cases i with
  | mvgt | mvh | henc | hdec => rfl
  | crc8 | crcenc | crcvfy | enc16 | dec42 => cases h

/-- All that an operation does: the request port stays, the response is the pure function's, R is `crcAfter`. For an operation
with a run, the run in the register is replaced by the pure run (`runCrc_eq`). -/
theorem exec_eq (i : Instr) (s : State) :
    exec i s = .next { s with crcR := crcAfter i s.crcR, resp := some (respondInstr i) } := by
  cases i with
  | mvgt | mvh | henc | hdec => rfl
  | crc8 p => simp only [exec, execCrc8, runCrc_eq, answer_eq, crcAfter, respondInstr]
  | crcenc p => simp only [exec, execCrcenc, runCrc_eq, answer_eq, crcAfter, respondInstr]
  | crcvfy f => simp only [exec, execCrcvfy, runCrc_eq, answer_eq, crcAfter, respondInstr]
  | enc16 p => simp only [exec, execEnc16, runCrc_eq, answer_eq, crcAfter, respondInstr, encode16]
  | dec42 cw => simp only [exec, execDec42, runCrc_eq, answer_eq, crcAfter, respondInstr, decode42]

/-! ### One step -/

theorem step_of_decode_ok {s : State} {w : RequestWord} {i : Instr} (hs : s.req = some w) (hd : decode w = .ok i) :
    step s = exec i (accept s) := by
  simp only [step, hs, hd]

theorem step_of_decode_error {s : State} {w : RequestWord} {e : DecodeReject} (hs : s.req = some w)
    (hd : decode w = .error e) : step s = rejectOp (accept s) := by
  simp only [step, hs, hd]

theorem respond_of_decode_ok {w : RequestWord} {i : Instr} (hd : decode w = .ok i) : respond w = respondInstr i := by
  simp only [respond, hd]

theorem respond_of_decode_error {w : RequestWord} {e : DecodeReject} (hd : decode w = .error e) :
    respond w = response (Result.err .illegalOp : Result 0) := by
  simp only [respond, hd]

/-- A held request is answered in one step with the pure function's response, whatever R and the response port held. -/
theorem step_of_request {s : State} {w : RequestWord} (hs : s.req = some w) :
    ∃ t, step s = .next t ∧ t.req = none ∧ t.resp = some (respond w) := by
  cases hd : decode w with
  | ok i => exact ⟨_, (step_of_decode_ok hs hd).trans (exec_eq i _), rfl, by rw [respond_of_decode_ok hd]⟩
  | error e =>
    exact ⟨_, (step_of_decode_error hs hd).trans (raise_eq .illegalOp _), rfl, by rw [respond_of_decode_error hd]⟩

/-! ### One request after another -/

theorem present_of_idle {s : State} (w : RequestWord) (hs : s.req = none) :
    present w s = .next { s with req := some w } := by
  simp only [present, hs]

/-- Serving a request gives its pure response and leaves an idle state: the invariant of a session. -/
theorem serve_of_idle {s : State} (w : RequestWord) (hs : s.req = none) :
    ∃ t, serve w s = some (respond w, t) ∧ t.req = none := by
  obtain ⟨t, hstep, hidle, hresp⟩ := step_of_request (s := { s with req := some w }) (w := w) rfl
  exact ⟨t, by simp only [serve, present_of_idle w hs, hstep, hresp, Option.map_some], hidle⟩

/-- A session is the service of its first request followed by the session of the others. -/
theorem session_cons_of_serve {w : RequestWord} {ws : List RequestWord} {s t u : State} {r : ResponseWord}
    {rs : List ResponseWord} (hw : serve w s = some (r, t)) (hws : session ws t = some (rs, u)) :
    session (w :: ws) s = some (r :: rs, u) := by
  simp only [session, hw, hws]

/-! ### The statements -/

/-- Settles O8, by induction on the list of requests, from every idle state: each service leaves an idle state. -/
theorem sessionAnswersAsPureFunction : Obligations.SessionAnswersAsPureFunction := by
  intro ws
  induction ws with
  | nil => exact fun s hs => ⟨s, rfl, hs⟩
  | cons w ws ih =>
    intro s hs
    obtain ⟨t, hserve, ht⟩ := serve_of_idle w hs
    obtain ⟨u, hsession, hu⟩ := ih t ht
    exact ⟨u, session_cons_of_serve hserve hsession, hu⟩

/-- Settles O7: each operation answers as the pure function does (`exec_eq`), and so does the rejection of a reserved `op`. -/
theorem stepAnswersAsPureFunction : Obligations.StepAnswersAsPureFunction :=
  fun _ _ hs => step_of_request hs

/-- Settles O10, from the equation of a run and the equation of an operation, whose response does not name R. -/
theorem crcRegisterIsOperationLocal : Obligations.CrcRegisterIsOperationLocal := by
  refine ⟨fun _ v s => runCrc_eq v s, fun i s t r h => ?_⟩
  rw [exec_eq] at h
  cases h
  exact ⟨_, exec_eq i _, rfl, fun hrun => crcAfter_of_usesCrc hrun _ _,
    fun hno => ⟨crcAfter_of_not_usesCrc hno _, crcAfter_of_not_usesCrc hno _⟩⟩

end Sys2Proof.Machine

/-! PROOFS. Transactions and instances: what an operation leaves unchanged (20_memory.md rule R24), and that instances share
nothing, so that their moves are local and commute (rules R25 and R27). -/
namespace Sys2Proof.Machine

/-! ### Every state has a next one -/

theorem step_of_idle {s : State} (hs : s.req = none) : step s = .next s := by
  simp only [step, hs, idle]

/-- A step is total: it answers a held request, and at an idle state it changes nothing. -/
theorem exists_step_next (s : State) : ∃ t, step s = .next t := by
  cases hs : s.req with
  | none => exact ⟨s, step_of_idle hs⟩
  | some w =>
    obtain ⟨t, hstep, -, -⟩ := step_of_request hs
    exact ⟨t, hstep⟩

/-! ### Moves of instances -/

theorem Bank.getElem_set_other {n : Nat} {i j : Fin n} (hij : i ≠ j) (b : Bank n) (s : State) : (b.set i s)[j] = b[j] :=
  Vector.getElem_set_ne i.isLt j.isLt (Fin.val_ne_of_ne hij)

/-- Any two moves of different instances commute: each reads and writes its own instance alone. -/
theorem Bank.moveAt_comm {n : Nat} {i j : Fin n} {f g : State → Host.Outcome State Fault Refusal} {b b₁ b₂ : Bank n}
    (hij : i ≠ j) (hf : b.moveAt i f = .next b₁) (hg : b₁.moveAt j g = .next b₂) :
    ∃ b₁', b.moveAt j g = .next b₁' ∧ b₁'.moveAt i f = .next b₂ := by
  obtain ⟨s, hs, rfl⟩ := Bank.moveAt_cases hf
  obtain ⟨t, ht, rfl⟩ := Bank.moveAt_cases hg
  rw [Bank.getElem_set_other hij] at ht
  refine ⟨b.set j t, Bank.moveAt_next j g b t ht, ?_⟩
  rw [Vector.set_comm s t (Fin.val_ne_of_ne hij)]
  exact Bank.moveAt_next i f _ s (by rwa [Bank.getElem_set_other hij.symm])

/-! ### The statements -/

/-- Settles O11: the equation of an operation (`exec_eq`) updates the response port and R only, and R only by a run. -/
theorem operationFrame : Obligations.OperationFrame := by
  intro i s t h
  rw [exec_eq] at h
  cases h
  exact ⟨rfl, rfl, fun hno => crcAfter_of_not_usesCrc hno _⟩

/-- Settles O14, as the case of two steps of `Bank.moveAt_comm`. -/
theorem instanceStepsCommute : Obligations.InstanceStepsCommute :=
  fun _ _ _ _ _ _ hij hi hj => Bank.moveAt_comm hij hi hj

/-- Settles O4: `accept` is the emptying of the request port. -/
theorem stepRunsDecodedOperation : Obligations.StepRunsDecodedOperation :=
  fun _ _ _ hs hd => step_of_decode_ok hs hd

/-- Settles O13, since a step is total and a move writes its own instance alone. -/
theorem instanceStepIsLocal : Obligations.InstanceStepIsLocal := by
  intro n k b
  obtain ⟨s, hs⟩ := exists_step_next b[k]
  exact ⟨s, b.set k s, hs, Bank.moveAt_next k step b s hs, Vector.getElem_set_self k.isLt,
    fun j hj => Bank.getElem_set_other hj.symm b s⟩

end Sys2Proof.Machine

/-! PROOFS. The request format (30_encoding.md rules R30 to R35): what the decoder reads, that it inverts the encoder, and that
it sees `op` and the live operand bits only. -/
namespace Sys2Proof

/-! ### The fields of a request word -/

theorem getLsbD_dinField {j : Nat} (hj : j < 42) (w : RequestWord) : (dinField w).getLsbD j = w.getLsbD j := by
  simp [dinField, hj]

theorem opField_encode (i : Instr) : opField (encode i) = i.opcode := (Laws.EncodedFields.fields i).1

theorem getLsbD_encode {j : Nat} (hj : j < 42) (i : Instr) : (encode i).getLsbD j = i.din.getLsbD j := by
  rw [← getLsbD_dinField hj, (Laws.EncodedFields.fields i).2]

theorem operandWidth_le (i : Instr) : i.operandWidth ≤ 42 := by
  cases i <;> simp [Instr.operandWidth]

/-- The encoder writes zeros above the operand (log entry 13). -/
theorem getLsbD_din_of_width_le {i : Instr} {j : Nat} (hj : i.operandWidth ≤ j) : i.din.getLsbD j = false := by
  cases i <;> simp_all [Instr.operandWidth, Instr.din, BitVec.getLsbD_of_ge]

/-- The operand is the low end of the whole word (R30, R32). -/
theorem operandField_dinField {k : Nat} (hk : k ≤ 42) (w : RequestWord) :
    operandField k (dinField w) = w.extractLsb' 0 k := by
  ext j hj
  have hj42 : j < 42 := by omega
  simp [operandField, dinField, hj42]

/-- A field of k bits holds v exactly when the word's low k bits are those of v right-aligned on `din` (R32). -/
theorem extractLsb'_zero_eq_iff {k : Nat} (hk : k ≤ 42) {w : RequestWord} {v : BitVec k} :
    w.extractLsb' 0 k = v ↔ ∀ j, j < k → w.getLsbD j = (v.setWidth 42).getLsbD j := by
  constructor
  · rintro rfl j hj
    have hj42 : j < 42 := by omega
    simp [hj, hj42]
  · intro h
    ext j hj
    have hj42 : j < 42 := by omega
    simpa [hj, hj42] using h j hj

/-! ### The decoder -/

/-- The values of `op` that select no operation (R34). -/
def IsReserved (op : Opcode) : Prop := op = 0x0#4 ∨ 0xA#4 ≤ op

theorem isReserved_iff {op : Opcode} : IsReserved op ↔ op.toNat < 1 ∨ 9 < op.toNat := by
  simp only [IsReserved, BitVec.le_def, ← BitVec.toNat_inj, BitVec.toNat_ofNat]
  omega

theorem not_isReserved_opcode (i : Instr) : ¬ IsReserved i.opcode := by
  cases i <;> simp [isReserved_iff, Instr.opcode]

/-- The word selects operation i and has its operand in the low bits of `din` (R30, R32, R33). -/
def Carries (w : RequestWord) (i : Instr) : Prop :=
  opField w = i.opcode ∧ ∀ j, j < i.operandWidth → w.getLsbD j = i.din.getLsbD j

theorem carries_encode (i : Instr) : Carries (encode i) i :=
  ⟨opField_encode i, fun _ hj => getLsbD_encode (hj.trans_le (operandWidth_le i)) i⟩

/-- All that the decoder can do: it reads an operation the word carries, or names a reserved `op`. -/
theorem decode_cases (w : RequestWord) :
    (∃ i, decode w = .ok i ∧ Carries w i) ∨ decode w = .error (.reservedOp (opField w)) ∧ IsReserved (opField w) := by
  unfold decode
  split
  on_goal 10 =>
    refine .inr ⟨rfl, isReserved_iff.2 ?_⟩
    simp only [imp_false] at *
    omega
  all_goals
    next hop =>
      refine .inl ⟨_, rfl, BitVec.eq_of_toNat_eq hop, ?_⟩
      exact (extractLsb'_zero_eq_iff (operandWidth_le _)).1 (operandField_dinField (operandWidth_le _) w).symm

/-- Of the operations, the decoder reads the one the word carries. -/
theorem decode_of_carries {w : RequestWord} {i : Instr} (h : Carries w i) : decode w = .ok i := by
  obtain ⟨hop, hdin⟩ := h
  have hnat : (opField w).toNat = i.opcode.toNat := by rw [hop]
  have hwidth := operandWidth_le i
  cases i
  all_goals
    simp only [decode, hnat, Instr.opcode, BitVec.toNat_ofNat, Nat.reduceMod, Nat.reducePow]
    congr 2
    exact (operandField_dinField hwidth w).trans ((extractLsb'_zero_eq_iff hwidth).2 hdin)

/-- The decoder reads i exactly where the word carries i. -/
theorem decode_eq_ok_iff {w : RequestWord} {i : Instr} : decode w = .ok i ↔ Carries w i := by
  refine ⟨fun h => ?_, decode_of_carries⟩
  obtain ⟨i', hi', hw⟩ | ⟨herr, -⟩ := decode_cases w
  · cases h.symm.trans hi'
    exact hw
  · cases h.symm.trans herr

/-- The decoder rejects exactly the reserved values of `op`. -/
theorem decode_eq_reservedOp_iff {w : RequestWord} :
    decode w = .error (.reservedOp (opField w)) ↔ IsReserved (opField w) := by
  obtain ⟨i, hi, hop, -⟩ | ⟨herr, hres⟩ := decode_cases w
  · simp [hi, hop, not_isReserved_opcode]
  · simp [herr, hres]

/-! ### The opcode map as mask and match -/

/-- The mask of R33 keeps `op` and clears `din`. -/
theorem and_opMask (w : RequestWord) : w &&& 0x3C0000000000#46 = requestWord (opField w) 0#42 := by
  have hmask : (0x3C0000000000#46 : RequestWord) = BitVec.allOnes 4 ++ 0#42 := by decide
  calc w &&& 0x3C0000000000#46
      = (opField w ++ dinField w) &&& (BitVec.allOnes 4 ++ 0#42) := by
        rw [hmask]
        exact congrArg (· &&& _) (Machine.requestWord_fields w).symm
    _ = opField w ++ 0#42 := by rw [BitVec.and_append, BitVec.and_allOnes, BitVec.and_zero]

theorem and_opMask_eq_iff {w : RequestWord} {op : Opcode} :
    w &&& 0x3C0000000000#46 = requestWord op 0#42 ↔ opField w = op := by
  rw [and_opMask]
  refine ⟨fun h => ?_, fun h => by rw [h]⟩
  simpa only [Machine.opField_requestWord] using congrArg opField h

/-- A row of the opcode map: mask and match select the operation whose operand the word holds (R33). -/
theorem opcodeMap_row {w row : RequestWord} {i : Instr} (op : Opcode) (hrow : row = requestWord op 0#42)
    (hop : i.opcode = op) (hdin : ∀ j, j < i.operandWidth → w.getLsbD j = i.din.getLsbD j) :
    w &&& 0x3C0000000000#46 = row ↔ decode w = .ok i := by
  rw [hrow, and_opMask_eq_iff, decode_eq_ok_iff, ← hop]
  exact ⟨fun h => ⟨h, hdin⟩, fun h => h.1⟩

/-! ### The statements -/

/-- Settles O15: the request word of an operation carries it, and so it is what the decoder reads. -/
theorem decodeEncodeRoundTrip : Obligations.DecodeEncodeRoundTrip :=
  fun i => decode_of_carries (carries_encode i)

/-- Settles O16: the word carries what was decoded, so its `op` and live bits are the encoder's; above them
the encoder has zeros. -/
theorem encodeDecodeClearsIgnoredBits : Obligations.EncodeDecodeClearsIgnoredBits := by
  intro w i h
  obtain ⟨hop, hdin⟩ := decode_eq_ok_iff.1 h
  refine ⟨(opField_encode i).trans hop.symm, fun j hj => ?_⟩
  rw [getLsbD_encode hj]
  by_cases hlive : j < i.operandWidth
  · simp [hlive, hdin j hlive]
  · simp [hlive, getLsbD_din_of_width_le (not_lt.1 hlive)]

/-- Settles O17, row by row of `opcodeMap_row`; that MVGT and HENC agree is the definition of the encoder (R53). -/
theorem opcodeMapRows : Obligations.OpcodeMapRows := by
  refine ⟨fun w => ?_, fun _ => rfl⟩
  have live := fun i : Instr => (extractLsb'_zero_eq_iff (w := w) (operandWidth_le i)).1 rfl
  exact ⟨opcodeMap_row 0x1#4 (by decide) rfl (live _), opcodeMap_row 0x2#4 (by decide) rfl (live _),
    opcodeMap_row 0x3#4 (by decide) rfl (live _), opcodeMap_row 0x4#4 (by decide) rfl (live _),
    opcodeMap_row 0x5#4 (by decide) rfl (live _), opcodeMap_row 0x6#4 (by decide) rfl (live _),
    opcodeMap_row 0x7#4 (by decide) rfl (live _), opcodeMap_row 0x8#4 (by decide) rfl (live _),
    opcodeMap_row 0x9#4 (by decide) rfl (live _), decode_eq_reservedOp_iff.symm⟩

/-- Settles O20, by evaluating the decoder. -/
theorem wordsDecodeAsWritten : Obligations.WordsDecodeAsWritten := by
  unfold Obligations.WordsDecodeAsWritten
  decide

end Sys2Proof

/-! PROOFS. The response format (30_encoding.md rules R31 to R35): which responses a request can have, and what every step
leaves on the response port. -/
namespace Sys2Proof.Machine

/-! ### The response words -/

theorem response_uncorrectableError {k : Nat} :
    response (Result.err .uncorrectableError : Result k) = 0x40000000000#44 :=
  (by decide : 1#2 ++ 0#42 = 0x40000000000#44)

theorem response_illegalOp {k : Nat} : response (Result.err .illegalOp : Result k) = 0x80000000000#44 :=
  (by decide : 2#2 ++ 0#42 = 0x80000000000#44)

/-- Below `status`, the word of `Ok(v)` has v right-aligned and zeros above it (R31, R32). -/
theorem getLsbD_response_ok {k j : Nat} (hj : j < 42) (v : BitVec k) :
    (response (.ok v)).getLsbD j = (decide (j < k) && v.getLsbD j) := by
  simp only [response, statusOf, doutOf, onBus, BitVec.getLsbD_append, hj, if_true, BitVec.getLsbD_setWidth]
  by_cases hk : j < k
  · simp [hk]
  · simp [hk, BitVec.getLsbD_of_ge v j (not_lt.1 hk)]

/-- An operation answers `Ok`, but for a DEC42 that fails its check (R64). -/
theorem respondInstr_cases (i : Instr) :
    statusField (respondInstr i) = 0#2 ∨ (∃ cw, i = .dec42 cw) ∧ respondInstr i = 0x40000000000#44 := by
  cases i with
  | dec42 cw =>
    simp only [respondInstr, decode42, crcGate]
    split
    · exact .inl (statusField_response _)
    · exact .inr ⟨⟨cw, rfl⟩, response_uncorrectableError⟩
  | _ => exact .inl (statusField_response _)

/-- All the responses a request can have (R31, R34, R64). -/
theorem respond_cases (w : RequestWord) :
    (¬ IsReserved (opField w) ∧
      (statusField (respond w) = 0#2 ∨ (∃ cw, decode w = .ok (.dec42 cw)) ∧ respond w = 0x40000000000#44)) ∨
    IsReserved (opField w) ∧ respond w = 0x80000000000#44 := by
  obtain ⟨i, hi, hop, -⟩ | ⟨herr, hres⟩ := decode_cases w
  · rw [respond_of_decode_ok hi, hop, hi]
    refine .inl ⟨not_isReserved_opcode i, ?_⟩
    obtain hok | ⟨⟨cw, rfl⟩, herr⟩ := respondInstr_cases i
    · exact .inl hok
    · exact .inr ⟨⟨cw, rfl⟩, herr⟩
  · exact .inr ⟨hres, (respond_of_decode_error herr).trans response_illegalOp⟩

theorem responseLegal_respond (w : RequestWord) : responseLegal (respond w) = true := by
  obtain ⟨-, hok | ⟨-, herr⟩⟩ | ⟨-, herr⟩ := respond_cases w
  · simp [responseLegal, hok]
  · rw [herr]; decide
  · rw [herr]; decide

/-- A reserved `op` is answered `Err(IllegalOp)`, with no other effect (R34). -/
theorem step_of_isReserved {s : State} {w : RequestWord} (hs : s.req = some w) (hop : IsReserved (opField w)) :
    step s = .next { s with req := none, resp := some 0x80000000000#44 } := by
  rw [step_of_decode_error hs (decode_eq_reservedOp_iff.2 hop), rejectOp, raise_eq, response_illegalOp, accept]

/-- The step looks at a held request through the decoder alone. -/
theorem step_congr_decode {s : State} {w w' : RequestWord} {i : Instr} (h : decode w = .ok i) (h' : decode w' = .ok i) :
    step { s with req := some w' } = step { s with req := some w } := by
  rw [step_of_decode_ok (s := { s with req := some w }) rfl h, step_of_decode_ok (s := { s with req := some w' }) rfl h']
  rfl

/-! ### The statements -/

/-- Settles O3: an idle step leaves the port as it is, and the response to a request is one of
`respond_cases`, all legal. -/
theorem stepKeepsResponseInvariant : Obligations.StepKeepsResponseInvariant := by
  intro s t hinv hstep
  cases hs : s.req with
  | none =>
    cases (step_of_idle hs).symm.trans hstep
    exact hinv
  | some w =>
    obtain ⟨t', ht', -, hresp⟩ := step_of_request hs
    cases ht'.symm.trans hstep
    simpa only [State.inv, hresp] using responseLegal_respond w

/-- Settles O18, with the service of the next request from the idle state that is left. -/
theorem reservedOpAnswersIllegalOp : Obligations.ReservedOpAnswersIllegalOp := by
  intro s w hs hop
  refine ⟨step_of_isReserved hs hop, fun w' => ?_⟩
  obtain ⟨t, hserve, -⟩ := serve_of_idle (s := { s with req := none, resp := some 0x80000000000#44 }) w' rfl
  rw [hserve, Option.map_some]

/-- Settles O19: a word that carries the same operation decodes to it, and every held request is answered. -/
theorem ignoredBitsDoNotMatter : Obligations.IgnoredBitsDoNotMatter := by
  refine ⟨fun s w w' i h hop hdin => ?_, fun s w => ?_⟩
  · obtain ⟨hop_i, hdin_i⟩ := decode_eq_ok_iff.1 h
    have h' : Carries w' i := ⟨hop.trans hop_i, fun j hj => (hdin j hj).trans (hdin_i j hj)⟩
    exact step_congr_decode h (decode_of_carries h')
  · obtain ⟨t, hstep, -, hresp⟩ := step_of_request (s := { s with req := some w }) rfl
    exact ⟨t, _, hstep, hresp⟩

/-- Settles O21, from the words of a result and the cases of a response. -/
theorem responseFormat : Obligations.ResponseFormat := by
  refine ⟨fun k v _ => ⟨statusField_response _, fun j hj => getLsbD_response_ok hj v⟩,
    fun k => ⟨response_uncorrectableError, response_illegalOp⟩, fun w => ?_⟩
  change _ ∧ _ ∧ _ ∧ (_ ↔ IsReserved (opField w))
  obtain ⟨hres, hok | ⟨hdec, herr⟩⟩ | ⟨hres, herr⟩ := respond_cases w
  · simp [hok, hres]
  · simp [herr, hres, hdec, statusField, doutField]
  · simp [herr, hres, statusField, doutField]

end Sys2Proof.Machine

/-! PROOFS. Operands and results on the buses (30_encoding.md rules R32 and R38): a value right-aligned on `dout` is read back by
the slice of its width, so an operation's result can be fed into the next. -/
namespace Sys2Proof.Machine

/-! ### Values on a bus -/

theorem getMsbD_operandField {k i : Nat} (hi : i < k) (din : Bus) :
    (operandField k din).getMsbD i = din.getLsbD (k - 1 - i) := by
  have hlt : k - 1 - i < k := by omega
  simp [operandField, BitVec.getMsbD, hi, hlt]

theorem getLsbD_onBus {k i : Nat} (hk : k ≤ 42) (hi : i < k) (v : BitVec k) :
    (onBus v).getLsbD (k - 1 - i) = v.getMsbD i := by
  have hlt : k - 1 - i < 42 := by omega
  simp [onBus, BitVec.getMsbD, hi, hlt]

theorem getLsbD_onBus_of_le {k i : Nat} (hi : k ≤ i) (v : BitVec k) : (onBus v).getLsbD i = false := by
  simp [onBus, BitVec.getLsbD_of_ge v i hi]

/-- A slice of the bus within the value is that slice of the value (20_memory.md R23). -/
theorem extractLsb'_onBus {k start len : Nat} (hk : k ≤ 42) (h : start + len ≤ k) (v : BitVec k) :
    (onBus v).extractLsb' start len = v.extractLsb' start len :=
  BitVec.extractLsb'_setWidth_of_le (h.trans hk)

/-! ### The results of operations on `dout` -/

/-- The k low bits of `dout` are an operation's result of width k (R31, R32). -/
theorem extractLsb'_dout_ok {k : Nat} (hk : k ≤ 42) (v : BitVec k) :
    (doutField (response (.ok v))).extractLsb' 0 k = v := by
  rw [doutField_response, doutOf, extractLsb'_onBus hk (by omega), BitVec.extractLsb'_eq_self]

theorem dout_henc (d : DataGroup) : (doutField (respondInstr (.henc d))).extractLsb' 0 7 = hammingEncode d :=
  extractLsb'_dout_ok (by decide) _

theorem dout_crc8 (p : Payload) : (doutField (respondInstr (.crc8 p))).extractLsb' 0 8 = crcRun p :=
  extractLsb'_dout_ok (by decide) _

theorem dout_crcenc (p : Payload) : (doutField (respondInstr (.crcenc p))).extractLsb' 0 24 = p ++ crcRun p :=
  extractLsb'_dout_ok (by decide) _

theorem dout_enc16 (p : Payload) : doutField (respondInstr (.enc16 p)) = encode16 p := by
  rw [respondInstr, doutField_response, doutOf, onBus, BitVec.setWidth_eq]

/-- HDEC's data stands above its syndrome (R32). -/
theorem dout_hdec_data (v : Block) : (doutField (respondInstr (.hdec v))).extractLsb' 3 4 = hammingData v := by
  rw [respondInstr, doutField_response, doutOf, extractLsb'_onBus (by decide) (by decide)]
  exact BitVec.extractLsb'_append_eq_left

theorem dout_hdec_syndrome (v : Block) : (doutField (respondInstr (.hdec v))).extractLsb' 0 3 = syndrome v := by
  rw [respondInstr, doutField_response, doutOf, extractLsb'_onBus (by decide) (by decide)]
  exact BitVec.extractLsb'_append_eq_right

/-- CRCVFY's boolean is the bit `dout[0]` (R32). -/
theorem dout_crcvfy (f : Frame) :
    doutField (respondInstr (.crcvfy f)) = if crcRun f = 0x00#8 then 1#42 else 0#42 := by
  rw [respondInstr, doutField_response, doutOf]
  by_cases hf : crcRun f = 0x00#8
  · rw [if_pos hf, hf]
    rfl
  · rw [if_neg hf, beq_eq_false_iff_ne.2 hf]
    rfl

/-- CRCVFY's `true` on `dout` says that the frame checks. -/
theorem dout_crcvfy_eq_one_iff (f : Frame) : doutField (respondInstr (.crcvfy f)) = 1#42 ↔ crcRun f = 0x00#8 := by
  rw [dout_crcvfy]
  split <;> simp_all

/-! ### The statements -/

/-- Settles O22, clause by clause from the lemmas on the buses and on the results of HDEC and CRCVFY. -/
theorem operandAndResultAssembly : Obligations.OperandAndResultAssembly := by
  refine ⟨fun k i din _ hi => getMsbD_operandField hi din, fun k i v hk hi => (getLsbD_onBus hk hi v).symm,
    fun k i v hi => getLsbD_onBus_of_le hi v,
    fun v => ⟨dout_hdec_data v, dout_hdec_syndrome v, ?_, ?_⟩,
    fun f => ⟨statusField_response _, dout_crcvfy f⟩, fun k i v hi => ?_⟩
  · rw [← dout_hdec_data]
    simp [BitVec.getMsbD]
  · rw [← dout_hdec_syndrome]
    simp [BitVec.getMsbD]
  · simp [bitsText, seqBits, hi, bitChar]

/-- Settles O50: the results read from `dout` are those the composed operations feed into each other. -/
theorem expansionIdentities : Obligations.ExpansionIdentities := by
  refine ⟨fun _ => rfl, fun p => by rw [dout_crcenc, dout_crc8], fun p f hf => ?_, fun cw f hf => ?_⟩
  · rw [dout_crcenc] at hf
    simp only [dout_henc, dout_enc16, hf]
    rfl
  · simp only [dout_hdec_data] at hf
    have hreassemble : reassemble cw = f := hf.symm
    simp only [dout_crcvfy_eq_one_iff]
    rw [respondInstr, decode42, hreassemble]
    exact apply_ite response _ _ _

end Sys2Proof.Machine

/-! PROOFS. The text form (30_encoding.md rule R37, 60_exceptions.md rules R70 and R72): a request's line splits at its first
space, its operand is a bit string of the operation's width, and a bit string is read back. -/
namespace Sys2Proof.Machine

/-! ### The caller's check of an operand text -/

theorem parseBits_of_length_ne {k : Nat} {text : List Char} (h : text.length ≠ k) :
    parseBits k text = .error .invalidLength := by
  simp only [parseBits, operandTextError, if_pos h]

theorem parseBits_of_not_binary {k : Nat} {text : List Char} (hlen : text.length = k)
    (h : text.all binaryDigit = false) : parseBits k text = .error .invalidCharacter := by
  simp [parseBits, operandTextError, hlen, h]

theorem parseBits_of_binary {k : Nat} {text : List Char} (hlen : text.length = k) (h : text.all binaryDigit = true) :
    parseBits k text = .ok (ofSeq k fun i => text.getD i '0' == '1') := by
  simp [parseBits, operandTextError, hlen, h]

/-- A bit string is not taken for hexadecimal: `x` is no binary digit. -/
theorem parseOperand_of_binary {k : Nat} {text : List Char} (h : text.all binaryDigit = true) :
    parseOperand k text = parseBits k text := by
  unfold parseOperand
  split
  · simp [binaryDigit] at h
  · rfl

/-! ### Bit strings -/

@[simp] theorem bitChar_eq_one (b : Bool) : (bitChar b == '1') = b := by cases b <;> rfl

@[simp] theorem binaryDigit_bitChar (b : Bool) : binaryDigit (bitChar b) = true := by cases b <;> rfl

theorem length_bitsText {k : Nat} (v : BitVec k) : (bitsText v).length = k := by simp [bitsText]

theorem all_binaryDigit_bitsText {k : Nat} (v : BitVec k) : (bitsText v).all binaryDigit = true := by
  simp [bitsText]

theorem ofSeq_congr {k : Nat} {f g : Nat → Bool} (h : ∀ i, i < k → f i = g i) : ofSeq k f = ofSeq k g :=
  BitVec.eq_of_getMsbD_eq fun i hi => by simp [getMsbD_ofSeq, hi, h i hi]

/-- The text of a value, read as an operand, is the value. -/
theorem parseOperand_bitsText {k : Nat} (v : BitVec k) : parseOperand k (bitsText v) = .ok v := by
  have hbit : ∀ i, i < k → ((bitsText v).getD i '0' == '1') = v.getMsbD i := fun i hi => by
    simp [bitsText, seqBits, hi]
  rw [parseOperand_of_binary (all_binaryDigit_bitsText v),
    parseBits_of_binary (length_bitsText v) (all_binaryDigit_bitsText v), ofSeq_congr hbit, ofSeq_getMsbD]

/-! ### The line of a request -/

/-- A line splits at its first space. -/
theorem parseRequest_append_space {name : List Char} (hname : ' ' ∉ name) (operand : List Char) :
    parseRequest (name ++ ' ' :: operand) = parseWords name operand := by
  have hword : ∀ c ∈ name, (c != ' ') = true := fun c hc => by
    simp only [bne_iff_ne]
    rintro rfl
    exact hname hc
  rw [parseRequest, List.takeWhile_append_of_pos hword, List.dropWhile_append_of_pos hword]
  simp

theorem space_notMem_mnemonicText (i : Instr) : ' ' ∉ mnemonicText i := by
  cases i <;> simp [mnemonicText]

/-- The two words of an operation give it back, whichever its row. -/
theorem parseWords_texts (i : Instr) : parseWords (mnemonicText i) (operandText i) = some (.ok i) := by
  cases i <;> simp only [mnemonicText, operandText, parseWords, parseOperand_bitsText] <;> rfl

/-! ### The statement -/

/-- Settles O59: the line splits into the mnemonic and the operand, whose bit string reads back; the errors are
the caller's check. -/
theorem requestTextRoundTrip : Obligations.RequestTextRoundTrip := by
  refine ⟨fun i => ?_, fun k text => parseBits_of_length_ne, fun k text hlen ⟨c, hc, hzero, hone⟩ => ?_⟩
  · rw [requestText, parseRequest_append_space (space_notMem_mnemonicText i), parseWords_texts]
  · refine parseBits_of_not_binary hlen (List.all_eq_false.2 ⟨c, hc, ?_⟩)
    simp [binaryDigit, hzero, hone]

end Sys2Proof.Machine

/-! PROOFS. The matrix-vector multiplier (40_gf2_matvec.md rules R40 to R43): the product as row parities and as a XOR of
columns, its laws for every matrix, and the two constant instances MVGT and MVH. -/
namespace Sys2Proof.Machine

/-! ### XOR sums -/

/-- A XOR sum is the parity of its number of true terms. -/
theorem xorSum_eq_parity (n : Nat) (t : Nat → Bool) :
    xorSum n t = decide (((List.range n).map t).count true % 2 = 1) := by
  induction n with
  | zero => rfl
  | succ n ih =>
    rw [xorSum, ih, List.range_succ, List.map_append, List.count_append]
    cases hlast : t n with
    | false => simp [hlast]
    | true => simp [hlast, Nat.succ_mod_two_eq_one_iff, ← decide_not]

/-- The XOR of all bits of a vector is the parity of its weight. -/
theorem xorSum_getMsbD {n : Nat} (v : BitVec n) : xorSum n v.getMsbD = decide (weight v % 2 = 1) :=
  xorSum_eq_parity n v.getMsbD

/-- Of a sum that one index selects, its term remains. -/
theorem xorSum_and_beq {n c : Nat} (hc : c < n) (t : Nat → Bool) : (xorSum n fun i => t i && i == c) = t c := by
  induction n with
  | zero => cases hc
  | succ n ih =>
    obtain hlt | rfl := Nat.lt_succ_iff_lt_or_eq.1 hc
    · simp [xorSum, ih hlt, beq_false_of_ne hlt.ne']
    · have hbefore : (xorSum c fun i => t i && i == c) = false :=
        (xorSum_congr fun i hi => by simp [hi.ne]).trans (xorSum_false c)
      simp [xorSum, hbefore]

/-- Element r of a XOR of selected vectors is the XOR sum over all of them, each element masked by its selection. -/
theorem getMsbD_foldl_xor_filter (m n r : Nat) (col : Nat → BitVec m) (sel : Nat → Bool) :
    (((List.range n).filter sel).foldl (fun acc c => acc ^^^ col c) 0#m).getMsbD r =
      xorSum n fun c => (col c).getMsbD r && sel c := by
  induction n with
  | zero => simp [xorSum]
  | succ n ih =>
    rw [List.range_succ, List.filter_append, List.foldl_append, xorSum, ← ih]
    cases hsel : sel n <;> simp [hsel]

/-! ### The product with any matrix -/

/-- Each output bit is the parity of the row masked by the vector (R40). -/
theorem getMsbD_matvec_eq_parity {m r : Nat} (hr : r < m) (n : Nat) (M : Matrix) (v : BitVec n) :
    (matvec m n M v).getMsbD r = decide (weight (ofSeq n (M r) &&& v) % 2 = 1) := by
  rw [← xorSum_getMsbD, getMsbD_matvec, decide_eq_true hr, Bool.true_and]
  exact xorSum_congr fun c hc => by simp [getMsbD_ofSeq, hc]

/-- The product is the XOR of the columns that the vector selects (R40). -/
theorem matvec_eq_foldl_columns (m n : Nat) (M : Matrix) (v : BitVec n) :
    matvec m n M v =
      ((List.range n).filter v.getMsbD).foldl (fun acc c => acc ^^^ ofSeq m fun r => M r c) 0#m :=
  BitVec.eq_of_getMsbD_eq fun r hr => by
    simp [getMsbD_foldl_xor_filter, getMsbD_matvec, getMsbD_ofSeq, hr]

/-- Linearity (R43 (a)): AND distributes over XOR in each term of the sum. -/
theorem matvec_xor (m n : Nat) (M : Matrix) (u v : BitVec n) :
    matvec m n M (u ^^^ v) = matvec m n M u ^^^ matvec m n M v :=
  BitVec.eq_of_getMsbD_eq fun r hr => by
    simp only [BitVec.getMsbD_xor, getMsbD_matvec, hr, decide_true, Bool.true_and, Bool.and_xor_distrib_left, xorSum_xor]

@[simp] theorem matvec_zero (m n : Nat) (M : Matrix) : matvec m n M 0#n = 0#m :=
  BitVec.eq_of_getMsbD_eq fun r _ => by simp [getMsbD_matvec]

/-- A unit vector selects its column (R43 (c)). -/
theorem matvec_unitAt {n c : Nat} (hc : c < n) (m : Nat) (M : Matrix) :
    matvec m n M (unitAt n c) = ofSeq m fun r => M r c := by
  refine BitVec.eq_of_getMsbD_eq fun r _ => ?_
  rw [getMsbD_matvec, getMsbD_ofSeq, ← xorSum_and_beq hc (M r)]
  congr 1
  exact xorSum_congr fun i hi => by simp [getMsbD_unitAt, hi]

/-! ### The two constant matrices -/

/-- `H · Gᵗ = 0` (R43 (e)), over the sixteen data groups. -/
theorem matvec_matH_matvec_matGt : ∀ d : DataGroup, matvec 3 7 matH (matvec 7 4 matGt d) = 0#3 := by decide

/-- The product with H vanishes exactly on the sixteen blocks of the code (R42, 42_hamming74.md R59), over the 128 words. -/
theorem matvec_matH_eq_zero_iff : ∀ v : Block, matvec 3 7 matH v = 0#3 ↔ v ∈ hammingBlocks := by decide

/-- R41's bits: each row of Gᵗ written out. -/
theorem getMsbD_matvec_matGt (v : DataGroup) :
    (matvec 7 4 matGt v).getMsbD 0 = v.getMsbD 0 ∧ (matvec 7 4 matGt v).getMsbD 1 = v.getMsbD 1 ∧
    (matvec 7 4 matGt v).getMsbD 2 = v.getMsbD 2 ∧ (matvec 7 4 matGt v).getMsbD 3 = v.getMsbD 3 ∧
    (matvec 7 4 matGt v).getMsbD 4 = (v.getMsbD 0 ^^ v.getMsbD 1 ^^ v.getMsbD 2) ∧
    (matvec 7 4 matGt v).getMsbD 5 = (v.getMsbD 1 ^^ v.getMsbD 2 ^^ v.getMsbD 3) ∧
    (matvec 7 4 matGt v).getMsbD 6 = (v.getMsbD 0 ^^ v.getMsbD 2 ^^ v.getMsbD 3) := by
  simp only [getMsbD_matvec]
  simp [xorSum, matGt, ofRows, Config.G]

/-- R42's bits: each row of H written out. -/
theorem getMsbD_matvec_matH (v : Block) :
    (matvec 3 7 matH v).getMsbD 0 = (v.getMsbD 0 ^^ v.getMsbD 1 ^^ v.getMsbD 2 ^^ v.getMsbD 4) ∧
    (matvec 3 7 matH v).getMsbD 1 = (v.getMsbD 1 ^^ v.getMsbD 2 ^^ v.getMsbD 3 ^^ v.getMsbD 5) ∧
    (matvec 3 7 matH v).getMsbD 2 = (v.getMsbD 0 ^^ v.getMsbD 2 ^^ v.getMsbD 3 ^^ v.getMsbD 6) := by
  simp only [getMsbD_matvec]
  simp [xorSum, matH, ofRows, Config.H]

/-! ### Requests of an operation -/

/-- A request word with the operation's `op` and its operand in the low bits of `din` decodes to it, whatever
the ignored bits hold (30_encoding.md R32, R33, R35). -/
theorem decode_requestWord {i : Instr} {din : Bus} (h : ∀ j, j < i.operandWidth → din.getLsbD j = i.din.getLsbD j) :
    decode (requestWord i.opcode din) = .ok i := by
  refine decode_of_carries ⟨opField_requestWord _ _, fun j hj => ?_⟩
  rw [← getLsbD_dinField (hj.trans_le (operandWidth_le i)), dinField_requestWord, h j hj]

/-- The low bits of `din` are those of the operand cut from it (R32). -/
theorem getLsbD_extractLsb'_onBus {k j : Nat} (hk : k ≤ 42) (hj : j < k) (din : Bus) :
    din.getLsbD j = (onBus (din.extractLsb' 0 k)).getLsbD j := by
  have hj42 : j < 42 := by omega
  simp [onBus, hj, hj42]

/-- The whole effect of the step at a request without a CRC run: the pure response is delivered, and R stays. -/
theorem step_of_not_usesCrc {s : State} {w : RequestWord} {i : Instr} (hs : s.req = some w) (hd : decode w = .ok i)
    (hno : usesCrc i = false) : step s = .next { s with req := none, resp := some (respondInstr i) } := by
  rw [step_of_decode_ok hs hd, exec_eq, crcAfter_of_not_usesCrc hno]
  rfl

/-! ### The statements -/

/-- Settles O23: the definition, the parity of the masked row, and the fold over the selected columns. -/
theorem matvecIsGf2Product : Obligations.MatvecIsGf2Product :=
  fun m n M v => ⟨fun r hr => by rw [getMsbD_matvec, decide_eq_true hr, Bool.true_and],
    fun _ hr => getMsbD_matvec_eq_parity hr n M v, matvec_eq_foldl_columns m n M v⟩

/-- Settles O24: the laws of any matrix from those of XOR sums, and `H · Gᵗ = 0` from the tables. -/
theorem matvecLaws : Obligations.MatvecLaws :=
  ⟨matvec_xor, matvec_zero, fun m _ M _ hc => matvec_unitAt hc m M, matvec_matH_matvec_matGt⟩

/-- Settles O25: the operand is read from `din[3:0]`, the bits are the rows of Gᵗ, and HENC is the same product. -/
theorem mvgtMultipliesByTransposedGenerator : Obligations.MvgtMultipliesByTransposedGenerator := by
  refine ⟨fun din => decode_requestWord (i := .mvgt _) fun j hj => getLsbD_extractLsb'_onBus (operandWidth_le _) hj din,
    fun v s => exec_eq (.mvgt v) s, fun v o ho => ho ▸ getMsbD_matvec_matGt v, matvec_zero .., by decide,
    fun _ _ => rfl, fun s hs => ?_⟩
  have hresp : respondInstr (.mvgt 0b1010#4) = 0x00000000052#44 := by decide
  rw [step_of_not_usesCrc (i := .mvgt 0b1010#4) hs (by decide) rfl, hresp]

/-- Settles O26: the operand is read from `din[6:0]`, the bits are the rows of H, and HDEC returns the same product as its
syndrome. -/
theorem mvhMultipliesByParityCheck : Obligations.MvhMultipliesByParityCheck := by
  refine ⟨fun din => decode_requestWord (i := .mvh _) fun j hj => getLsbD_extractLsb'_onBus (operandWidth_le _) hj din,
    fun v s => exec_eq (.mvh v) s, fun v o ho => ho ▸ getMsbD_matvec_matH v, matvec_zero .., by decide, by decide,
    matvec_matH_eq_zero_iff, dout_hdec_syndrome, fun s hs => ?_⟩
  have hresp : respondInstr (.mvh 0b1010110#7) = 0x00000000004#44 := by decide
  rw [step_of_not_usesCrc (i := .mvh 0b1010110#7) hs (by decide) rfl, hresp]

end Sys2Proof.Machine

/-! PROOFS. The CRC engine (41_crc8.md rules R45, R46 and R50): each bit of a step, the values of R along a run, and the laws that
the step hands on to a run: linearity, the parity of the input, and which bits bring R to zero. -/
namespace Sys2Proof.Machine

/-! ### One step -/

/-- The step in the source's words: shift, and XOR `POLY_LOW` where the feedback bit is 1 (R45). -/
theorem crcStep_eq (R : Remainder) (b : Bool) :
    crcStep R b = if R.getLsbD 7 ^^ b then (R <<< 1) ^^^ 0x07#8 else R <<< 1 := by
  have hshift : R <<< 1 = (R.extractLsb' 0 7 ++ 0#1 : Remainder) :=
    BitVec.shiftLeft_eq_concat_of_lt (x := R) (n := 1) (by decide)
  have hlow : Config.polyLow = 0x07#8 := by decide
  simp only [crcStep, hshift, hlow]

/-- Each bit of a step: the bit below it, and the feedback at the three taps of `POLY_LOW`. -/
theorem getLsbD_crcStep {j : Nat} (hj : j < 8) (R : Remainder) (b : Bool) :
    (crcStep R b).getLsbD j = ((!decide (j = 0) && R.getLsbD (j - 1)) ^^ (decide (j < 3) && (R.getLsbD 7 ^^ b))) := by
  have htap : (0x07#8).getLsbD j = decide (j < 3) := by revert j; decide
  rw [crcStep_eq]
  cases R.getLsbD 7 ^^ b with
  | false => simp only [Bool.false_eq_true, if_false, BitVec.getLsbD_shiftLeft]; simp [hj]
  | true => simp only [if_true, BitVec.getLsbD_xor, htap, BitVec.getLsbD_shiftLeft]; simp [hj]

theorem getLsbD_crcStep_zero (R : Remainder) (b : Bool) : (crcStep R b).getLsbD 0 = (R.getLsbD 7 ^^ b) :=
  (getLsbD_crcStep (by decide) R b).trans (Bool.false_xor _)

theorem getLsbD_crcStep_one (R : Remainder) (b : Bool) :
    (crcStep R b).getLsbD 1 = (R.getLsbD 0 ^^ (R.getLsbD 7 ^^ b)) := getLsbD_crcStep (by decide) R b

theorem getLsbD_crcStep_two (R : Remainder) (b : Bool) :
    (crcStep R b).getLsbD 2 = (R.getLsbD 1 ^^ (R.getLsbD 7 ^^ b)) := getLsbD_crcStep (by decide) R b

/-- Above the taps a step is a shift. -/
theorem getLsbD_crcStep_of_three_le {j : Nat} (h3 : 3 ≤ j) (hj : j < 8) (R : Remainder) (b : Bool) :
    (crcStep R b).getLsbD j = R.getLsbD (j - 1) := by
  have hzero : j ≠ 0 := by omega
  simp only [getLsbD_crcStep hj, hzero, not_lt.2 h3, decide_false, Bool.not_false, Bool.true_and, Bool.false_and, Bool.xor_false]

/-- The step is linear in the register and the input bit together. -/
theorem crcStep_xor (R S : Remainder) (a b : Bool) : crcStep (R ^^^ S) (a ^^ b) = crcStep R a ^^^ crcStep S b :=
  BitVec.eq_of_getLsbD_eq fun j hj => by
    simp only [BitVec.getLsbD_xor, getLsbD_crcStep hj, Bool.and_xor_distrib_left, Bool.xor_assoc, Bool.xor_left_comm]

/-- A step adds its input bit to the parity of R: the generator has an even number of terms (R50 (d)). -/
theorem xorSum_crcStep (R : Remainder) (b : Bool) : xorSum 8 (crcStep R b).getLsbD = (xorSum 8 R.getLsbD ^^ b) := by
  simp (disch := decide) only [xorSum, getLsbD_crcStep_zero, getLsbD_crcStep_one, getLsbD_crcStep_two,
    getLsbD_crcStep_of_three_le, Nat.reduceSub]
  cases R.getLsbD 7 <;> cases b <;> simp

/-- With no feedback, a step only shifts. -/
theorem crcStep_getLsbD_seven (R : Remainder) : crcStep R (R.getLsbD 7) = R <<< 1 := by
  simp only [crcStep_eq, Bool.xor_self, Bool.false_eq_true, if_false]

/-! ### The values of R along a run -/

/-- The value of R after the first i bits of the sequence t (R46). -/
def crcReg (t : Nat → Bool) : Nat → Remainder
  | 0 => Config.crcInit
  | i + 1 => crcStep (crcReg t i) (t i)

theorem foldl_crcStep_range (t : Nat → Bool) (n : Nat) :
    ((List.range n).map t).foldl crcStep Config.crcInit = crcReg t n := by
  induction n with
  | zero => rfl
  | succ n ih => rw [List.range_succ, List.map_append, List.foldl_append, ih]; rfl

/-- A run over v ends with the value after all n bits of v, `v⟨0⟩` first. -/
theorem crcRun_eq_crcReg {n : Nat} (v : BitVec n) : crcRun v = crcReg v.getMsbD n :=
  foldl_crcStep_range v.getMsbD n

theorem crcReg_xor (t u : Nat → Bool) (n : Nat) :
    crcReg (fun i => t i ^^ u i) n = crcReg t n ^^^ crcReg u n := by
  induction n with
  | zero => exact (BitVec.xor_self (x := Config.crcInit)).symm
  | succ n ih => simp only [crcReg, ih, crcStep_xor]

/-- The parity of R is that of the bits taken in. -/
theorem xorSum_crcReg (t : Nat → Bool) (n : Nat) : xorSum 8 (crcReg t n).getLsbD = xorSum n t := by
  induction n with
  | zero => simp [crcReg, Config.crcInit, xorSum]
  | succ n ih => rw [crcReg, xorSum_crcStep, ih, xorSum]

/-! ### Linearity (R50 (b)) -/

theorem crcRun_xor {n : Nat} (u v : BitVec n) : crcRun (u ^^^ v) = crcRun u ^^^ crcRun v := by
  have hbits : (u ^^^ v).getMsbD = fun i => u.getMsbD i ^^ v.getMsbD i := funext fun i => BitVec.getMsbD_xor
  simp only [crcRun_eq_crcReg, hbits, crcReg_xor]

@[simp] theorem crcRun_zero (n : Nat) : crcRun 0#n = 0x00#8 := by
  rw [← BitVec.xor_self (x := 0#n), crcRun_xor, BitVec.xor_self]

/-- A valid frame changed by e checks exactly when e does. -/
theorem crcRun_xor_eq_zero_iff {n : Nat} {f : BitVec n} (hf : crcRun f = 0x00#8) (e : BitVec n) :
    crcRun (f ^^^ e) = 0x00#8 ↔ crcRun e = 0x00#8 := by
  rw [crcRun_xor, hf, BitVec.zero_xor]

/-! ### Which bits bring R to zero -/

theorem eq_iff_getMsbD_eq {k : Nat} {u v : BitVec k} : u = v ↔ ∀ i, u.getMsbD i = v.getMsbD i :=
  ⟨fun h _ => h ▸ rfl, fun h => BitVec.eq_of_getMsbD_eq fun i _ => h i⟩

/-- At most eight bits bring R to zero exactly when they are the bits R holds, from its top bit on: a feedback of 1 sets bit 0,
and the bits still to come, at most seven, cannot shift that 1 out. The check of a frame rests on it (R50 (c)). -/
theorem foldl_crcStep_eq_zero_iff {bits : List Bool} (hlen : bits.length ≤ 8) (R : Remainder) :
    bits.foldl crcStep R = 0x00#8 ↔ ∀ j, R.getMsbD j = bits.getD j false := by
  induction bits generalizing R with
  | nil => simp [eq_iff_getMsbD_eq]
  | cons b bits ih =>
    have hlen7 : bits.length ≤ 7 := Nat.le_of_succ_le_succ hlen
    rw [List.foldl_cons, ih (by omega), ← Nat.and_forall_add_one (p := fun j => R.getMsbD j = _)]
    constructor
    · intro h
      obtain rfl : R.getLsbD 7 = b := by
        have hlast : (crcStep R b).getLsbD 0 = bits.getD 7 false := h 7
        simpa only [getLsbD_crcStep_zero, List.getD_eq_default _ _ hlen7, bne_eq_false_iff_eq] using hlast
      rw [crcStep_getLsbD_seven] at h
      exact ⟨rfl, fun j => by simpa [Nat.add_comm] using h j⟩
    · rintro ⟨htop, h⟩
      obtain rfl : R.getLsbD 7 = b := htop
      rw [crcStep_getLsbD_seven]
      exact fun j => by simpa [Nat.add_comm] using h j

/-- The eight bits that bring R to zero are R itself. -/
theorem foldl_crcStep_seqBits_eq_zero_iff (R r : Remainder) : (seqBits r).foldl crcStep R = 0x00#8 ↔ r = R := by
  have hbit : ∀ j, (seqBits r).getD j false = r.getMsbD j := fun j => by
    by_cases hj : j < 8 <;> simp [seqBits, BitVec.getMsbD, hj]
  simp only [foldl_crcStep_eq_zero_iff (length_seqBits r).le, hbit, eq_comm, eq_iff_getMsbD_eq]

/-- By evaluation at the 256 values of R, like the next. -/
theorem crcStep_false_eq_zero_iff : ∀ R : Remainder, crcStep R false = 0x00#8 ↔ R = 0x00#8 := by decide

theorem crcStep_true_eq_zero_iff : ∀ R : Remainder, crcStep R true = 0x00#8 ↔ R = 0x80#8 := by decide

/-- Zeros bring no value of R to zero but zero itself: x is invertible modulo the generator. -/
theorem foldl_crcStep_eq_zero_iff_of_no_ones {bits : List Bool} (hzeros : true ∉ bits) (R : Remainder) :
    bits.foldl crcStep R = 0x00#8 ↔ R = 0x00#8 := by
  induction bits generalizing R with
  | nil => rfl
  | cons b bits ih =>
    obtain ⟨hb, hbits⟩ := not_or.1 (List.mem_cons.not.1 hzeros)
    rw [List.foldl_cons, ih hbits, Bool.eq_false_of_not_eq_true (Ne.symm hb), crcStep_false_eq_zero_iff]

end Sys2Proof.Machine

/-! PROOFS. The polynomial form of the CRC run (41_crc8.md rule R50 (a)): reading R and the input as polynomials over GF(2), a
step multiplies by x, adds the input bit at x⁸ and subtracts a multiple of the generator. -/
namespace Sys2Proof.Machine

open Polynomial

/-! ### Bits, the register and the input as polynomials -/

/-- The generator x⁸+x²+x+1. -/
noncomputable def crcGenerator : (ZMod 2)[X] := X ^ 8 + X ^ 2 + X + 1

/-- A bit as an element of GF(2), a constant polynomial. -/
noncomputable def bitPoly (b : Bool) : (ZMod 2)[X] := if b then 1 else 0

/-- The register as Σ R[j]·x^j. -/
noncomputable def regPoly (R : Remainder) : (ZMod 2)[X] := ∑ j ∈ Finset.range 8, if R.getLsbD j then X ^ j else 0

/-- The first n bits of a sequence as Σ t⟨i⟩·x^(n-1-i). -/
noncomputable def seqPoly (t : Nat → Bool) (n : Nat) : (ZMod 2)[X] :=
  ∑ i ∈ Finset.range n, if t i then X ^ (n - 1 - i) else 0

/-- The terms of the sums above as products. -/
theorem ite_pow_eq_bitPoly_mul (b : Bool) (k : Nat) : (if b then (X : (ZMod 2)[X]) ^ k else 0) = bitPoly b * X ^ k := by
  cases b <;> simp [bitPoly]

/-- XOR is addition over GF(2). -/
theorem bitPoly_xor (a b : Bool) : bitPoly (a ^^ b) = bitPoly a + bitPoly b := by
  cases a <;> cases b <;> simp [bitPoly, CharTwo.add_self_eq_zero]

theorem regPoly_crcInit : regPoly Config.crcInit = 0 := by simp [regPoly, Config.crcInit]

/-- One more bit of input: multiply by x and add the bit. -/
theorem seqPoly_succ (t : Nat → Bool) (n : Nat) : seqPoly t (n + 1) = seqPoly t n * X + bitPoly (t n) := by
  have hshift : ∀ i ∈ Finset.range n, bitPoly (t i) * X ^ (n - i) = bitPoly (t i) * X ^ (n - 1 - i) * X := fun i hi => by
    have hexp : n - i = n - 1 - i + 1 := by have := Finset.mem_range.1 hi; omega
    rw [hexp, pow_succ, mul_assoc]
  simp only [seqPoly, ite_pow_eq_bitPoly_mul, Finset.sum_range_succ, Nat.add_sub_cancel, Nat.sub_self, pow_zero, mul_one,
    Finset.sum_mul]
  rw [Finset.sum_congr rfl hshift]

/-- One step of the engine (R45): multiply by x, add the input bit at x⁸, and where the feedback is 1 subtract the
generator, which takes the term x⁸ away. -/
theorem regPoly_crcStep (R : Remainder) (b : Bool) :
    regPoly (crcStep R b) = regPoly R * X + bitPoly b * X ^ 8 - bitPoly (R.getLsbD 7 ^^ b) * crcGenerator := by
  have htwo : (2 : (ZMod 2)[X]) = 0 := CharTwo.two_eq_zero
  simp (disch := decide) only [regPoly, ite_pow_eq_bitPoly_mul, Finset.sum_range_succ, Finset.sum_range_zero, zero_add,
    getLsbD_crcStep_zero, getLsbD_crcStep_one, getLsbD_crcStep_two, getLsbD_crcStep_of_three_le, Nat.reduceSub, bitPoly_xor,
    crcGenerator]
  linear_combination (1 + X + X ^ 2) * (bitPoly (R.getLsbD 7) + bitPoly b) * htwo

/-! ### The remainder -/

theorem crcGenerator_monic : crcGenerator.Monic := by
  unfold crcGenerator
  monicity!

theorem degree_crcGenerator : crcGenerator.degree = 8 := by
  unfold crcGenerator
  compute_degree!

theorem degree_regPoly_lt (R : Remainder) : (regPoly R).degree < crcGenerator.degree := by
  rw [degree_crcGenerator]
  refine mem_degreeLT.1 (Submodule.sum_mem _ fun j hj => ?_)
  split
  · rw [mem_degreeLT, degree_X_pow]
    exact_mod_cast Finset.mem_range.1 hj
  · exact Submodule.zero_mem _

/-- Along a run, the input so far times x⁸ and the register differ by a multiple of the generator. -/
theorem crcGenerator_dvd (t : Nat → Bool) (n : Nat) : crcGenerator ∣ seqPoly t n * X ^ 8 - regPoly (crcReg t n) := by
  induction n with
  | zero => simp [seqPoly, crcReg, regPoly_crcInit]
  | succ n ih =>
    obtain ⟨q, hq⟩ := ih
    refine ⟨q * X + bitPoly ((crcReg t n).getLsbD 7 ^^ t n), ?_⟩
    rw [seqPoly_succ, crcReg, regPoly_crcStep]
    linear_combination X * hq

/-- Settles O32, by induction on the width: the register is the remainder because it is congruent to the input times x⁸ and of
lower degree than the generator. -/
theorem crcIsPolynomialRemainder : Obligations.CrcIsPolynomialRemainder := by
  intro n v
  change (seqPoly v.getMsbD n * X ^ 8) %ₘ crcGenerator = regPoly (crcRun v)
  rw [crcRun_eq_crcReg, modByMonic_eq_of_dvd_sub crcGenerator_monic (crcGenerator_dvd v.getMsbD n),
    (modByMonic_eq_self_iff crcGenerator_monic).2 (degree_regPoly_lt _)]

end Sys2Proof.Machine

/-! PROOFS. What the CRC check detects (41_crc8.md rule R50 (b) to (d)): a frame checks exactly when it ends with the remainder of
its payload, and no error of odd weight, of two bits, or within eight consecutive positions is itself a valid frame. -/
namespace Sys2Proof.Machine

/-- A frame checks exactly when it ends with the remainder of its payload (R50 (c)). -/
theorem crcRun_append_eq_zero_iff {n : Nat} (v : BitVec n) (r : Remainder) : crcRun (v ++ r) = 0x00#8 ↔ r = crcRun v := by
  rw [crcRun_append, foldl_crcStep_seqBits_eq_zero_iff]

/-! ### The bits of an error -/

theorem getElem_seqBits {n j : Nat} (v : BitVec n) (hj : j < (seqBits v).length) : (seqBits v)[j] = v.getMsbD j := by
  simp [seqBits]

/-- The bits of a vector that has no 1 are those of zero. -/
theorem eq_zero_of_no_ones {n : Nat} {v : BitVec n} (h : true ∉ seqBits v) : v = 0#n := by
  refine BitVec.eq_of_getMsbD_eq fun i hi => ?_
  have hbit : v.getMsbD i ≠ true := fun hone => h (List.mem_map.2 ⟨i, List.mem_range.2 hi, hone⟩)
  simpa using hbit

/-- A list with k + 1 ones is zeros, a 1, and a rest with k ones. -/
theorem exists_zeros_append_of_count_succ {bits : List Bool} {k : Nat} (h : bits.count true = k + 1) :
    ∃ zeros rest, bits = zeros ++ true :: rest ∧ true ∉ zeros ∧ rest.count true = k := by
  obtain ⟨zeros, rest, rfl, hzeros⟩ := List.eq_append_cons_of_mem (List.count_pos_iff.1 (k.succ_pos.trans_eq h.symm))
  refine ⟨zeros, rest, rfl, hzeros, ?_⟩
  simpa [List.count_eq_zero_of_not_mem hzeros] using h

/-! ### Odd weight -/

/-- A run that ends in zero has taken in an even number of ones, for its value has the parity of its input. -/
theorem weight_even_of_crcRun_eq_zero {n : Nat} {v : BitVec n} (h : crcRun v = 0x00#8) : weight v % 2 ≠ 1 := by
  have hparity := xorSum_crcReg v.getMsbD n
  rw [← crcRun_eq_crcReg, h, xorSum_getMsbD] at hparity
  simpa [xorSum] using hparity.symm

/-! ### Two ones -/

/-- The first 1 of an input leaves 0x07 in R, which fewer than 24 zeros after it do not turn into 0x80: x has order 127 modulo
the generator. -/
theorem foldl_crcStep_zeros_ne : ∀ k < 24, (List.replicate k false).foldl crcStep 0x07#8 ≠ 0x80#8 := by decide

/-- Two ones with fewer than 24 zeros between them do not bring R back to zero. -/
theorem crcRun_ne_zero_of_weight_two {e : Frame} (h : weight e = 2) : crcRun e ≠ 0x00#8 := by
  obtain ⟨zeros, rest, he, hzeros, hrest⟩ := exists_zeros_append_of_count_succ h
  obtain ⟨between, tail, rfl, hbetween, htail⟩ := exists_zeros_append_of_count_succ hrest
  have hlen : between.length < 24 := by
    have := congrArg List.length he
    simp only [length_seqBits, List.length_append, List.length_cons] at this
    omega
  have hstart : zeros.foldl crcStep Config.crcInit = 0x00#8 := (foldl_crcStep_eq_zero_iff_of_no_ones hzeros _).2 rfl
  have hfirst : crcStep 0x00#8 true = 0x07#8 := by decide
  have hreplicate : between = List.replicate between.length false :=
    List.eq_replicate_iff.2 ⟨rfl, fun b hb => Bool.eq_false_of_not_eq_true fun hone => hbetween (hone ▸ hb)⟩
  rw [crcRun, he, List.foldl_append, hstart, List.foldl_cons, hfirst, List.foldl_append, List.foldl_cons, ne_eq,
    foldl_crcStep_eq_zero_iff_of_no_ones (List.count_eq_zero.1 htail), crcStep_true_eq_zero_iff, hreplicate]
  exact foldl_crcStep_zeros_ne _ hlen

/-- No error of one to three bits is a valid frame. -/
theorem crcRun_ne_zero_of_weight_le_three {e : Frame} (hne : e ≠ 0#24) (h : weight e ≤ 3) : crcRun e ≠ 0x00#8 := by
  intro hrun
  have heven := weight_even_of_crcRun_eq_zero hrun
  have hpos : weight e ≠ 0 := fun hw => hne (eq_zero_of_no_ones (List.count_eq_zero.1 hw))
  exact crcRun_ne_zero_of_weight_two (by omega) hrun

/-! ### Bursts -/

/-- Between zeros, at most eight bits that leave R at zero are zeros themselves. -/
theorem no_ones_of_burst {before burst after : List Bool} (hbefore : true ∉ before) (hafter : true ∉ after)
    (hlen : burst.length ≤ 8) (h : (before ++ burst ++ after).foldl crcStep Config.crcInit = 0x00#8) : true ∉ burst := by
  have hstart : before.foldl crcStep Config.crcInit = 0x00#8 := (foldl_crcStep_eq_zero_iff_of_no_ones hbefore _).2 rfl
  rw [List.foldl_append, foldl_crcStep_eq_zero_iff_of_no_ones hafter, List.foldl_append, hstart,
    foldl_crcStep_eq_zero_iff hlen] at h
  intro hmem
  obtain ⟨j, hj, hone⟩ := List.getElem_of_mem hmem
  simpa [hj, hone] using h j

/-- No nonzero error within eight consecutive positions is a valid frame. -/
theorem crcRun_ne_zero_of_burst {n i : Nat} {e : BitVec n} (hne : e ≠ 0#n)
    (hburst : ∀ j, e.getMsbD j = true → i ≤ j ∧ j < i + 8) : crcRun e ≠ 0x00#8 := by
  intro hrun
  have hsplit : seqBits e = (seqBits e).take i ++ ((seqBits e).drop i).take 8 ++ (seqBits e).drop (i + 8) := by
    rw [List.append_assoc, ← List.drop_drop, List.take_append_drop, List.take_append_drop]
  have hbefore : true ∉ (seqBits e).take i := fun hmem => by
    obtain ⟨j, hj, hone⟩ := List.mem_take_iff_getElem.1 hmem
    have := hburst j ((getElem_seqBits e _).symm.trans hone)
    omega
  have hafter : true ∉ (seqBits e).drop (i + 8) := fun hmem => by
    obtain ⟨j, hj, hone⟩ := List.mem_drop_iff_getElem.1 hmem
    have := hburst _ ((getElem_seqBits e _).symm.trans hone)
    omega
  rw [crcRun, hsplit] at hrun
  have hmid := no_ones_of_burst hbefore hafter (List.length_take_le 8 _) hrun
  refine hne (eq_zero_of_no_ones ?_)
  rw [hsplit]
  simp only [List.mem_append, not_or]
  exact ⟨⟨hbefore, hmid⟩, hafter⟩

/-! ### The statements -/

/-- Settles O35: by linearity the changed frame checks exactly when the error does, and none of these errors does. -/
theorem crcDetectsSmallErrors : Obligations.CrcDetectsSmallErrors := by
  intro f e hf
  have herror := crcRun_xor_eq_zero_iff hf e
  refine ⟨herror, fun hne hw => ?_, fun hodd => ?_, fun i hne hburst => ?_⟩
  · exact herror.not.2 (crcRun_ne_zero_of_weight_le_three hne hw)
  · exact herror.not.2 fun hrun => weight_even_of_crcRun_eq_zero hrun hodd
  · exact herror.not.2 (crcRun_ne_zero_of_burst hne hburst)

/-- Settles O33: each step is linear, and R starts at zero. -/
theorem crcRunIsLinear : Obligations.CrcRunIsLinear := ⟨fun _ => crcRun_xor, crcRun_zero⟩

/-- Settles O34, as the case of a 16-bit payload. -/
theorem crcCheckIsEquality : Obligations.CrcCheckIsEquality := crcRun_append_eq_zero_iff

end Sys2Proof.Machine

/-! PROOFS. The three CRC operations (41_crc8.md rules R45 to R49): one step and one run in the register, and what CRC8, CRCENC
and CRCVFY answer to a request. -/
namespace Sys2Proof.Machine

/-- The whole effect of the step at a request that decodes: the pure response is delivered, R is the operation's. -/
theorem step_eq_of_decode_ok {s : State} {w : RequestWord} {i : Instr} (hs : s.req = some w) (hd : decode w = .ok i) :
    step s = .next { s with req := none, crcR := crcAfter i s.crcR, resp := some (respondInstr i) } := by
  rw [step_of_decode_ok hs hd, exec_eq]
  rfl

/-- The register trace of R47's example. -/
theorem crcTrace_A5C3 : crcTrace 0xA5C3#16 =
    [0x07#8, 0x0E#8, 0x1B#8, 0x36#8, 0x6C#8, 0xDF#8, 0xB9#8, 0x72#8, 0xE3#8, 0xC6#8, 0x8B#8, 0x11#8, 0x22#8, 0x44#8,
      0x8F#8, 0x1E#8] := by decide +kernel

theorem crcRun_A5C3 : crcRun 0xA5C3#16 = 0x1E#8 := by decide +kernel

/-- Leading zeros leave R at zero and so do not count (R47). -/
theorem crcRun_zero_append (k : Nat) {n : Nat} (v : BitVec n) : crcRun (0#k ++ v) = crcRun v := by
  rw [crcRun_append, crcRun_zero]
  rfl

/-- On `dout`, CRCENC's payload stands above its remainder (R48). -/
theorem dout_crcenc_payload (p : Payload) : (doutField (respondInstr (.crcenc p))).extractLsb' 8 16 = p := by
  rw [respondInstr, doutField_response, doutOf, extractLsb'_onBus (by decide) (by decide)]
  exact BitVec.extractLsb'_append_eq_left

theorem dout_crcenc_remainder (p : Payload) : (doutField (respondInstr (.crcenc p))).extractLsb' 0 8 = crcRun p := by
  rw [respondInstr, doutField_response, doutOf, extractLsb'_onBus (by decide) (by decide)]
  exact BitVec.extractLsb'_append_eq_right

/-- A failed check is answered as a value: status 0 either way (R49). -/
theorem respondInstr_crcvfy (f : Frame) : respondInstr (.crcvfy f) = if crcRun f = 0x00#8 then 1#44 else 0#44 := by
  by_cases hf : crcRun f = 0x00#8
  · rw [if_pos hf, respondInstr, hf]
    decide
  · rw [if_neg hf, respondInstr, beq_eq_false_iff_ne.2 hf]
    decide

/-! ### The statements -/

/-- Settles O28, with the values of R along the run as the sequence. -/
theorem crcRunTakesBitsInOrder : Obligations.CrcRunTakesBitsInOrder := by
  intro n v s
  refine ⟨crcReg v.getMsbD, rfl, fun i hi => ?_, ?_, crcRun_eq_crcReg v⟩
  · rw [crcReg, BitVec.getMsbD, decide_eq_true hi, Bool.true_and]
  · rw [runCrc_eq, crcRun_eq_crcReg]

/-- Settles O29: the operand is read from `din[15:0]`, and leading zeros leave R at zero. -/
theorem crc8ReturnsPayloadRemainder : Obligations.Crc8ReturnsPayloadRemainder := by
  refine ⟨fun din => decode_requestWord (i := .crc8 _) fun j hj => getLsbD_extractLsb'_onBus (operandWidth_le _) hj din,
    fun p s => exec_eq (.crc8 p) s, crcRun_zero 16, by decide +kernel, by decide +kernel, by decide +kernel, by decide +kernel,
    fun k _ v => crcRun_zero_append k v, crcTrace_A5C3, fun s hs => ?_⟩
  have hresp : respondInstr (.crc8 0xA5C3#16) = 0x0000000001E#44 := by
    rw [respondInstr, crcRun_A5C3]
    decide
  rw [step_eq_of_decode_ok (i := .crc8 0xA5C3#16) hs (by decide), hresp, crcAfter, crcRun_A5C3]

/-- Settles O30: a frame that ends with the remainder of its payload checks. -/
theorem crcencAppendsRemainder : Obligations.CrcencAppendsRemainder := by
  refine ⟨fun din => decode_requestWord (i := .crcenc _) fun j hj => getLsbD_extractLsb'_onBus (operandWidth_le _) hj din,
    fun p s => exec_eq (.crcenc p) s, fun p => ⟨dout_crcenc_payload p, dout_crcenc_remainder p⟩, ?_,
    fun p => (dout_crcvfy_eq_one_iff _).2 ((crcRun_append_eq_zero_iff p _).2 rfl), fun s hs => ?_⟩
  · rw [respondInstr, crcRun_zero]
    decide
  · have hresp : respondInstr (.crcenc 0xA5C3#16) = 0x00000A5C31E#44 := by
      rw [respondInstr, crcRun_A5C3]
      decide
    rw [step_eq_of_decode_ok (i := .crcenc 0xA5C3#16) hs (by decide), hresp, crcAfter, crcRun_A5C3]

/-- Settles O27, from the bits of a step. -/
theorem crcStepBitByBit : Obligations.CrcStepBitByBit := by
  refine ⟨fun R b => ⟨?_, getLsbD_crcStep_two R b, getLsbD_crcStep_one R b, getLsbD_crcStep_zero R b, crcStep_eq R b⟩,
    fun _ _ => rfl⟩
  refine BitVec.eq_of_getLsbD_eq fun j hj => ?_
  rw [BitVec.getLsbD_extractLsb', BitVec.getLsbD_extractLsb', getLsbD_crcStep_of_three_le (by omega) (by omega)]
  congr 2
  omega

/-- Settles O31: the run over the frame is left in R, and the answer says whether it is zero. -/
theorem crcvfyReportsFrameValidity : Obligations.CrcvfyReportsFrameValidity := by
  have hvalid : crcRun 0xA5C31E#24 = 0x00#8 := by decide +kernel
  have hinvalid : crcRun 0xA5C31F#24 = 0x07#8 := by decide +kernel
  refine ⟨fun din => decode_requestWord (i := .crcvfy _) fun j hj => getLsbD_extractLsb'_onBus (operandWidth_le _) hj din,
    fun f s => ?_, crcRun_zero 24, by decide +kernel, by decide +kernel, fun s hs => ?_, fun s hs => ?_⟩
  · rw [exec_eq, respondInstr_crcvfy]
    rfl
  · rw [step_eq_of_decode_ok (i := .crcvfy 0xA5C31E#24) hs (by decide), respondInstr_crcvfy, crcAfter, hvalid]
    rfl
  · rw [step_eq_of_decode_ok (i := .crcvfy 0xA5C31F#24) hs (by decide), respondInstr_crcvfy, crcAfter, hinvalid]
    rfl

end Sys2Proof.Machine

/-! PROOFS. The weight of a vector and its slices: how one flipped bit changes the number of ones, and that slicing is linear. -/
namespace Sys2Proof.Machine

/-! ### Weight -/

theorem count_true_map_range (t : Nat → Bool) (n : Nat) :
    ((List.range n).map t).count true = ∑ i ∈ Finset.range n, (t i).toNat := by
  induction n with
  | zero => rfl
  | succ n ih =>
    rw [List.range_succ, List.map_append, List.count_append, Finset.sum_range_succ, ih]
    cases hlast : t n <;> simp [hlast]

theorem weight_eq_sum {n : Nat} (v : BitVec n) : weight v = ∑ i ∈ Finset.range n, (v.getMsbD i).toNat :=
  count_true_map_range v.getMsbD n

@[simp] theorem weight_zero (n : Nat) : weight 0#n = 0 := by simp [weight_eq_sum]

theorem weight_eq_zero_iff {n : Nat} {v : BitVec n} : weight v = 0 ↔ v = 0#n :=
  ⟨fun h => eq_zero_of_no_ones (List.count_eq_zero.1 h), fun h => h ▸ weight_zero n⟩

/-- Flipping a bit takes its value from the weight and adds the inverted one: the other bits stay. -/
theorem weight_xor_unitAt {n k : Nat} (hk : k < n) (v : BitVec n) :
    weight (v ^^^ unitAt n k) + (v.getMsbD k).toNat = weight v + (!v.getMsbD k).toNat := by
  have hmem : k ∈ Finset.range n := Finset.mem_range.2 hk
  have hflipped : (v ^^^ unitAt n k).getMsbD k = !v.getMsbD k := by simp [getMsbD_unitAt, hk]
  have hothers : ∀ i ∈ (Finset.range n).erase k, ((v ^^^ unitAt n k).getMsbD i).toNat = (v.getMsbD i).toNat := fun i hi => by
    rw [BitVec.getMsbD_xor, getMsbD_unitAt, beq_false_of_ne (Finset.ne_of_mem_erase hi), Bool.and_false, Bool.xor_false]
  rw [weight_eq_sum, weight_eq_sum, ← Finset.add_sum_erase _ _ hmem, ← Finset.add_sum_erase _ _ hmem,
    Finset.sum_congr rfl hothers, hflipped]
  omega

theorem weight_unitAt {n k : Nat} (hk : k < n) : weight (unitAt n k) = 1 := by
  simpa using weight_xor_unitAt hk 0#n

/-- An error of at most one bit is none, or a unit vector. -/
theorem eq_zero_or_unitAt_of_weight_le_one {n : Nat} {e : BitVec n} (h : weight e ≤ 1) :
    e = 0#n ∨ ∃ j, j < n ∧ e = unitAt n j := by
  refine or_iff_not_imp_left.2 fun hne => ?_
  have hone : ∃ j, j < n ∧ e.getMsbD j = true := by
    by_contra hnone
    push Not at hnone
    exact hne (BitVec.eq_of_getMsbD_eq fun j hj => by simpa using hnone j hj)
  obtain ⟨j, hj, hbit⟩ := hone
  have hflip := weight_xor_unitAt hj e
  rw [hbit, Bool.toNat_true, Bool.not_true, Bool.toNat_false] at hflip
  exact ⟨j, hj, BitVec.xor_eq_zero_iff.1 (weight_eq_zero_iff.1 (by omega))⟩

/-! ### Differences and slices -/

/-- What was XORed into a vector is its difference from it. -/
theorem xor_xor_cancel {n : Nat} (u v : BitVec n) : u ^^^ v ^^^ u = v := by
  rw [BitVec.xor_comm u, BitVec.xor_assoc, BitVec.xor_self, BitVec.xor_zero]

theorem seqSlice_xor {n : Nat} (u v : BitVec n) (i len : Nat) :
    seqSlice (u ^^^ v) i len = seqSlice u i len ^^^ seqSlice v i len :=
  BitVec.extractLsb'_xor

@[simp] theorem seqSlice_zero (n i len : Nat) : seqSlice 0#n i len = 0#len := by simp [seqSlice]

theorem weight_seqSlice_zero_le {n len : Nat} (h : len ≤ n) (v : BitVec n) : weight (seqSlice v 0 len) ≤ weight v := by
  have hbits : ∀ i ∈ Finset.range len, ((seqSlice v 0 len).getMsbD i).toNat = (v.getMsbD i).toNat := fun i hi => by
    rw [getMsbD_seqSlice v 0 len i (by omega), decide_eq_true (Finset.mem_range.1 hi), Bool.true_and, Nat.zero_add]
  rw [weight_eq_sum, weight_eq_sum, Finset.sum_congr rfl hbits]
  exact Finset.sum_le_sum_of_subset (Finset.range_subset_range.2 h)

end Sys2Proof.Machine

/-! PROOFS. The Hamming(7,4) encoder (42_hamming74.md rules R53, R54 and R60): linear, systematic, and so injective; its sixteen
blocks are the kernel of H. With the CRC run's linearity, `encode16` is linear too (43_composer.md rule R62). -/
namespace Sys2Proof.Machine

/-! ### The encoder -/

theorem hammingEncode_xor (a b : DataGroup) : hammingEncode (a ^^^ b) = hammingEncode a ^^^ hammingEncode b :=
  matvec_xor 7 4 matGt a b

@[simp] theorem hammingEncode_zero : hammingEncode 0#4 = 0#7 := matvec_zero 7 4 matGt

/-- The first four elements of a block are the data (R54), by the first four rows of Gᵗ. -/
@[simp] theorem seqSlice_hammingEncode (d : DataGroup) : seqSlice (hammingEncode d) 0 4 = d := by
  obtain ⟨h0, h1, h2, h3, -⟩ := getMsbD_matvec_matGt d
  refine BitVec.eq_of_getMsbD_eq fun i hi => ?_
  rw [getMsbD_seqSlice _ 0 4 i (by decide), decide_eq_true hi, Bool.true_and, Nat.zero_add]
  match i, hi with
  | 0, _ => exact h0
  | 1, _ => exact h1
  | 2, _ => exact h2
  | 3, _ => exact h3

/-- The data is read back from the block, so no two groups share one. -/
theorem hammingEncode_injective : Function.Injective hammingEncode :=
  Function.LeftInverse.injective (g := fun c => seqSlice c 0 4) seqSlice_hammingEncode

/-- Any slice of HENC's block on `dout` (R32). -/
theorem extractLsb'_dout_henc {start len : Nat} (h : start + len ≤ 7) (d : DataGroup) :
    (doutField (respondInstr (.henc d))).extractLsb' start len = (hammingEncode d).extractLsb' start len := by
  rw [respondInstr, doutField_response, doutOf, extractLsb'_onBus (by decide) h]

/-! ### The sixteen blocks -/

/-- The rows of R60's table, by evaluating the encoder on the sixteen data values. -/
theorem hammingEncode_table :
    ((List.range 16).map fun d => hammingEncode (BitVec.ofNat 4 d)) = hammingBlocks := by decide

/-- The least nonzero weight (R60), over the sixteen data values. -/
theorem three_le_weight_hammingEncode : ∀ d : DataGroup, d ≠ 0#4 → 3 ≤ weight (hammingEncode d) := by decide

/-- A word has syndrome zero exactly when it is one of the sixteen blocks (R59 (a)). -/
theorem syndrome_eq_zero_iff {v : Block} : syndrome v = 0#3 ↔ v ∈ hammingBlocks := matvec_matH_eq_zero_iff v

theorem hammingEncode_mem (d : DataGroup) : hammingEncode d ∈ hammingBlocks :=
  syndrome_eq_zero_iff.1 (matvec_matH_matvec_matGt d)

/-- The blocks of the table are the words HENC produces. -/
theorem exists_hammingEncode_eq_iff {v : Block} : (∃ d, hammingEncode d = v) ↔ v ∈ hammingBlocks := by
  constructor
  · rintro ⟨d, rfl⟩
    exact hammingEncode_mem d
  · rw [← hammingEncode_table]
    exact fun h => (List.mem_map.1 h).imp' _ fun _ hd => hd.2

/-- A block is determined by its first four bits. -/
theorem hammingEncode_seqSlice {c : Block} (hc : c ∈ hammingBlocks) : hammingEncode (seqSlice c 0 4) = c := by
  obtain ⟨d, rfl⟩ := exists_hammingEncode_eq_iff.2 hc
  rw [seqSlice_hammingEncode]

theorem seqSlice_ne_zero_of_mem {c : Block} (hc : c ∈ hammingBlocks) (hne : c ≠ 0#7) : seqSlice c 0 4 ≠ 0#4 := fun h =>
  hne (by rw [← hammingEncode_seqSlice hc, h, hammingEncode_zero])

theorem three_le_weight_of_mem {c : Block} (hc : c ∈ hammingBlocks) (hne : c ≠ 0#7) : 3 ≤ weight c := by
  have h := three_le_weight_hammingEncode _ (seqSlice_ne_zero_of_mem hc hne)
  rwa [hammingEncode_seqSlice hc] at h

/-! ### The composed encoder -/

theorem concatBlocks_xor (b c : Nat → Block) :
    (concatBlocks fun k => b k ^^^ c k) = concatBlocks b ^^^ concatBlocks c := by
  simp only [concatBlocks, ← BitVec.xor_append]

theorem encodeFrame_xor (f g : Frame) : encodeFrame (f ^^^ g) = encodeFrame f ^^^ encodeFrame g := by
  simp only [encodeFrame, frameGroup, seqSlice_xor, hammingEncode_xor, concatBlocks_xor]

/-- Linearity of ENC16 (R62): the frame is linear in the payload, for the CRC run is. -/
theorem encode16_xor (a b : Payload) : encode16 (a ^^^ b) = encode16 a ^^^ encode16 b := by
  rw [encode16, crcRun_xor, ← BitVec.xor_append, encodeFrame_xor]
  rfl

/-! ### The statements -/

/-- Settles O48: matrix products and the CRC run are linear, and the encoder is systematic. -/
theorem encodersAreLinear : Obligations.EncodersAreLinear :=
  ⟨hammingEncode_xor, fun _ _ h => hammingEncode_injective h, encode16_xor⟩

/-- Settles O36: the operand is read from `din[3:0]`, the bits are the rows of Gᵗ, and MVGT is the same product. -/
theorem hencEncodesGroup : Obligations.HencEncodesGroup := by
  refine ⟨fun din => decode_requestWord (i := .henc _) fun j hj => getLsbD_extractLsb'_onBus (operandWidth_le _) hj din,
    fun d s => exec_eq (.henc d) s, fun d c hc => hc ▸ getMsbD_matvec_matGt d, hammingEncode_zero, by decide, by decide,
    fun _ _ => rfl, fun s hs => ?_⟩
  have hresp : respondInstr (.henc 0b1010#4) = 0x00000000052#44 := by decide
  rw [step_of_not_usesCrc (i := .henc 0b1010#4) hs (by decide) rfl, hresp]

/-- Settles O37: the slices of `dout` are those of the block. -/
theorem hammingEncoderIsSystematic : Obligations.HammingEncoderIsSystematic := fun d =>
  ⟨seqSlice_hammingEncode d, (extractLsb'_dout_henc (by decide) d).trans (seqSlice_hammingEncode d),
    extractLsb'_dout_henc (by decide) d, by
      rw [respondInstr, doutField_response]
      exact getLsbD_onBus (i := 4) (by decide) (by decide) (hammingEncode d)⟩

/-- Settles O38: the table by evaluation, and its blocks are both the encoder's words and the kernel of H. -/
theorem hammingBlockTable : Obligations.HammingBlockTable :=
  ⟨hammingEncode_table, by decide, fun _ => exists_hammingEncode_eq_iff.trans syndrome_eq_zero_iff.symm,
    three_le_weight_hammingEncode⟩

end Sys2Proof.Machine

/-! PROOFS. Syndrome decoding (42_hamming74.md rules R55 to R59). HDEC adds to the received word a mask of at most one bit that has
the word's own syndrome; linearity then gives that the corrected word is a block, the one block within distance 1, and what becomes
of any error on any block. -/
namespace Sys2Proof.Machine

/-! ### The syndrome -/

theorem syndrome_xor (u v : Block) : syndrome (u ^^^ v) = syndrome u ^^^ syndrome v := matvec_xor 3 7 matH u v

theorem syndrome_unitAt {j : Nat} (hj : j < 7) : syndrome (unitAt 7 j) = columnH j := matvec_unitAt hj 3 matH

/-- The syndrome sees the error alone: that of a block is zero (R55). -/
theorem syndrome_xor_of_mem {c : Block} (hc : c ∈ hammingBlocks) (e : Block) : syndrome (c ^^^ e) = syndrome e := by
  rw [syndrome_xor, syndrome_eq_zero_iff.2 hc, BitVec.zero_xor]

/-! ### The error position -/

/-- H's columns are nonzero and distinct, so the search for one of them finds it (R56), over the seven columns. -/
theorem errorPosition_columnH : ∀ j < 7, errorPosition (columnH j) = some j := by decide

/-- Every nonzero syndrome is a column of H (R56), over the eight syndromes. -/
theorem eq_zero_or_columnH : ∀ y : Syndrome, y = 0#3 ∨ ∃ j < 7, columnH j = y := by decide

theorem columnH_injective {i j : Nat} (hi : i < 7) (hj : j < 7) (h : columnH i = columnH j) : i = j :=
  Option.some.inj ((errorPosition_columnH i hi).symm.trans (h ▸ errorPosition_columnH j hj))

/-! ### The mask XORed into the received word -/

/-- The bit HDEC flips at a syndrome, as a mask; zero where it flips none (R56). -/
def correctionMask (y : Syndrome) : Block := (errorPosition y).elim 0#7 (unitAt 7)

theorem correct_eq_xor (v : Block) : correct v = v ^^^ correctionMask (syndrome v) := by
  unfold correct correctionMask
  cases errorPosition (syndrome v) <;> simp

@[simp] theorem correctionMask_zero : correctionMask 0#3 = 0#7 := rfl

theorem correctionMask_columnH {j : Nat} (hj : j < 7) : correctionMask (columnH j) = unitAt 7 j := by
  rw [correctionMask, errorPosition_columnH j hj, Option.elim_some]

/-- The mask has the syndrome it is chosen for. -/
@[simp] theorem syndrome_correctionMask (y : Syndrome) : syndrome (correctionMask y) = y := by
  obtain rfl | ⟨j, hj, rfl⟩ := eq_zero_or_columnH y
  · exact matvec_zero 3 7 matH
  · rw [correctionMask_columnH hj, syndrome_unitAt hj]

theorem weight_correctionMask_le (y : Syndrome) : weight (correctionMask y) ≤ 1 := by
  obtain rfl | ⟨j, hj, rfl⟩ := eq_zero_or_columnH y
  · decide
  · rw [correctionMask_columnH hj, weight_unitAt hj]

/-- The masks of R56's table, over the eight syndromes. -/
theorem correctionMask_table : ∀ y : Syndrome, correctionMask y =
    [0x00#7, 0x01#7, 0x02#7, 0x08#7, 0x04#7, 0x40#7, 0x20#7, 0x10#7].getD y.toNat 0#7 := by decide

/-- At the three syndromes of weight 1 a parity bit is flipped (R57, corner case 3). -/
theorem seqSlice_correctionMask_of_parity : ∀ y ∈ [0b001#3, 0b010#3, 0b100#3], seqSlice (correctionMask y) 0 4 = 0#4 := by
  decide

/-- At the other four a data bit is flipped (R57, corner case 4). -/
theorem weight_seqSlice_correctionMask_of_data :
    ∀ y ∈ [0b011#3, 0b101#3, 0b110#3, 0b111#3], weight (seqSlice (correctionMask y) 0 4) = 1 := by decide

/-! ### The corrected word -/

theorem correct_of_syndrome_eq_zero {v : Block} (h : syndrome v = 0#3) : correct v = v := by
  rw [correct_eq_xor, h, correctionMask_zero, BitVec.xor_zero]

theorem correct_of_columnH_eq {v : Block} {j : Nat} (hj : j < 7) (h : columnH j = syndrome v) :
    correct v = v ^^^ unitAt 7 j := by
  rw [correct_eq_xor, ← h, correctionMask_columnH hj]

@[simp] theorem syndrome_correct (v : Block) : syndrome (correct v) = 0#3 := by
  rw [correct_eq_xor, syndrome_xor, syndrome_correctionMask, BitVec.xor_self]

/-- The corrected word is a block (R57, corner case 5). -/
theorem correct_mem (v : Block) : correct v ∈ hammingBlocks := syndrome_eq_zero_iff.1 (syndrome_correct v)

theorem weight_correct_xor_le (v : Block) : weight (correct v ^^^ v) ≤ 1 := by
  rw [correct_eq_xor, xor_xor_cancel]
  exact weight_correctionMask_le _

/-- Correction works on the error alone, for the mask depends on the syndrome alone. -/
theorem correct_xor_of_mem {c : Block} (hc : c ∈ hammingBlocks) (e : Block) : correct (c ^^^ e) = c ^^^ correct e := by
  rw [correct_eq_xor, correct_eq_xor, syndrome_xor_of_mem hc, BitVec.xor_assoc]

theorem correct_unitAt {j : Nat} (hj : j < 7) : correct (unitAt 7 j) = 0#7 := by
  rw [correct_of_columnH_eq hj (syndrome_unitAt hj).symm, BitVec.xor_self]

/-- An error of at most one bit is removed altogether. -/
theorem correct_eq_zero_of_weight_le_one {e : Block} (h : weight e ≤ 1) : correct e = 0#7 := by
  obtain rfl | ⟨j, hj, rfl⟩ := eq_zero_or_unitAt_of_weight_le_one h
  · exact correct_of_syndrome_eq_zero (matvec_zero 3 7 matH)
  · exact correct_unitAt hj

/-- The corrected word is the only block within distance 1 (R59 (c)): seen from such a block, the received word is a single error,
which correction removes. -/
theorem eq_correct_of_weight_le_one {b v : Block} (hb : b ∈ hammingBlocks) (h : weight (b ^^^ v) ≤ 1) : b = correct v :=
  calc b = b ^^^ correct (b ^^^ v) := by rw [correct_eq_zero_of_weight_le_one h, BitVec.xor_zero]
    _ = correct (b ^^^ (b ^^^ v)) := (correct_xor_of_mem hb _).symm
    _ = correct v := by rw [BitVec.xor_comm b (b ^^^ v), xor_xor_cancel]

/-! ### The data -/

theorem hammingData_eq_xor (v : Block) :
    hammingData v = seqSlice v 0 4 ^^^ seqSlice (correctionMask (syndrome v)) 0 4 := by
  rw [hammingData, correct_eq_xor, seqSlice_xor]

theorem hammingData_of_syndrome_eq_zero {v : Block} (h : syndrome v = 0#3) : hammingData v = seqSlice v 0 4 := by
  rw [hammingData, correct_of_syndrome_eq_zero h]

theorem hammingEncode_hammingData (v : Block) : hammingEncode (hammingData v) = correct v :=
  hammingEncode_seqSlice (correct_mem v)

/-- On a block with an error, the data is wrong by the data of the corrected error. -/
theorem hammingData_xor_of_mem {c : Block} (hc : c ∈ hammingBlocks) (e : Block) :
    hammingData (c ^^^ e) = seqSlice c 0 4 ^^^ hammingData e := by
  rw [hammingData, correct_xor_of_mem hc, seqSlice_xor]
  rfl

/-! ### Blocks with at most one error -/

theorem hammingDecode_of_mem {c : Block} (hc : c ∈ hammingBlocks) : hammingDecode c = (seqSlice c 0 4, 0#3) := by
  have hy := syndrome_eq_zero_iff.2 hc
  rw [hammingDecode, hammingData_of_syndrome_eq_zero hy, hy]

/-- A single error is corrected, and the syndrome is the column at its position (R59 (d)). -/
theorem hammingDecode_xor_unitAt {c : Block} (hc : c ∈ hammingBlocks) {j : Nat} (hj : j < 7) :
    hammingDecode (c ^^^ unitAt 7 j) = (seqSlice c 0 4, columnH j) := by
  rw [hammingDecode, syndrome_xor_of_mem hc, syndrome_unitAt hj, hammingData, correct_xor_of_mem hc, correct_unitAt hj,
    BitVec.xor_zero]

/-! ### Two errors in a block -/

theorem syndrome_ne_zero_of_weight_two {e : Block} (h : weight e = 2) : syndrome e ≠ 0#3 := by
  intro hy
  have hne : e ≠ 0#7 := fun he => by simp [he] at h
  have := three_le_weight_of_mem (syndrome_eq_zero_iff.1 hy) hne
  omega

/-- Two errors draw in a third one: a clean bit is flipped, for a block has no weight 1 (R58). -/
theorem exists_third_flip_of_weight_two {e : Block} (h : weight e = 2) :
    ∃ k, k < 7 ∧ columnH k = syndrome e ∧ e.getMsbD k = false ∧ correct e = e ^^^ unitAt 7 k ∧ weight (correct e) = 3 := by
  obtain hzero | ⟨k, hk, hcol⟩ := eq_zero_or_columnH (syndrome e)
  · exact absurd hzero (syndrome_ne_zero_of_weight_two h)
  have hcorrect := correct_of_columnH_eq hk hcol
  have hflip := weight_xor_unitAt hk e
  rw [← hcorrect, h] at hflip
  cases hbit : e.getMsbD k with
  | false => exact ⟨k, hk, hcol, hbit, hcorrect, by simpa [hbit] using hflip⟩
  | true =>
    have hone : weight (correct e) = 1 := by simpa [hbit] using hflip
    have hne : correct e ≠ 0#7 := fun hz => by simp [hz] at hone
    have := three_le_weight_of_mem (correct_mem e) hne
    omega

/-- Two errors leave one to three wrong data bits: the third flip makes a block of weight 3 of them. -/
theorem weight_hammingData_of_weight_two {e : Block} (h : weight e = 2) :
    1 ≤ weight (hammingData e) ∧ weight (hammingData e) ≤ 3 := by
  obtain ⟨k, -, -, -, -, hthree⟩ := exists_third_flip_of_weight_two h
  have hne : correct e ≠ 0#7 := fun hz => by simp [hz] at hthree
  refine ⟨Nat.pos_of_ne_zero fun hz => ?_, (weight_seqSlice_zero_le (by decide) _).trans_eq hthree⟩
  exact seqSlice_ne_zero_of_mem (correct_mem e) hne (weight_eq_zero_iff.1 hz)

/-! ### The statements -/

/-- Settles O42: HDEC inverts the bit of the mask, so the corner cases are those of the mask and of the laws of correction. -/
theorem hdecCorrectsOneBit : Obligations.HdecCorrectsOneBit := by
  refine ⟨fun din => decode_requestWord (i := .hdec _) fun j hj => getLsbD_extractLsb'_onBus (operandWidth_le _) hj din,
    fun v s => exec_eq (.hdec v) s, fun _ => rfl, fun _ => hammingData_of_syndrome_eq_zero,
    fun v j hj hcol => by rw [hammingData, correct_of_columnH_eq hj hcol],
    fun _ => hammingDecode_of_mem, fun _ _ hc hj => hammingDecode_xor_unitAt hc hj, fun v hy => ?_, fun v hy => ?_,
    fun v => ⟨correct_mem v, hammingEncode_hammingData v, syndrome_correct v⟩,
    hammingDecode_of_mem (by decide), hammingDecode_of_mem (by decide), fun s hs => ?_⟩
  · rw [hammingData_eq_xor, seqSlice_correctionMask_of_parity _ hy, BitVec.xor_zero]
  · rw [hammingData_eq_xor, xor_xor_cancel]
    exact weight_seqSlice_correctionMask_of_data _ hy
  · have hresp : respondInstr (.hdec 0b1010110#7) = 0x00000000054#44 := by decide
    rw [step_of_not_usesCrc (i := .hdec 0b1010110#7) hs (by decide) rfl, hresp]

/-- Settles O39: the rows of H written out. -/
theorem syndromeBits : Obligations.SyndromeBits :=
  ⟨fun v _ hy => hy ▸ getMsbD_matvec_matH v, fun _ => ⟨rfl, rfl⟩⟩

/-- Settles O40, by linearity of the syndrome. -/
theorem syndromeDependsOnErrorAlone : Obligations.SyndromeDependsOnErrorAlone :=
  fun _ e hc => syndrome_xor_of_mem hc e

/-- Settles O41: the nonzero syndromes are the columns of H, which are distinct; the mapping and the masks by evaluation. -/
theorem errorPositionIsMatchingColumn : Obligations.ErrorPositionIsMatchingColumn := by
  refine ⟨by decide, rfl, fun y hy => ?_, by decide, fun v => by rw [correct_eq_xor, correctionMask_table]⟩
  obtain ⟨j, hj, rfl⟩ := (eq_zero_or_columnH y).resolve_left hy
  exact ⟨j, hj, errorPosition_columnH j hj, rfl, fun j' hj' hcol => columnH_injective hj' hj hcol⟩

/-- Settles O43: correction acts on the error alone; two errors become a block of weight 3, and three or more have syndrome zero
only as a nonzero block, whose data is not zero. -/
theorem multipleErrorsMiscorrect : Obligations.MultipleErrorsMiscorrect := by
  refine ⟨fun c e hc he => ?_, fun c e hc he => ?_, fun v => ?_⟩
  · obtain ⟨k, hk, hcol, hclean, hcorrect, hthree⟩ := exists_third_flip_of_weight_two he
    have hwrong : hammingData (c ^^^ e) ^^^ seqSlice c 0 4 = hammingData e := by
      rw [hammingData_xor_of_mem hc, xor_xor_cancel]
    rw [syndrome_xor_of_mem hc, hwrong, correct_xor_of_mem hc]
    refine ⟨syndrome_ne_zero_of_weight_two he, ⟨k, hk, hcol, hclean, ?_⟩, weight_hammingData_of_weight_two he⟩
    rw [← hcorrect]
    exact ⟨correct_mem e, hthree, rfl⟩
  · rw [syndrome_xor_of_mem hc]
    refine ⟨syndrome_eq_zero_iff, fun hy => ?_⟩
    have hne : e ≠ 0#7 := fun hz => by simp [hz] at he
    have hdata := hammingData_of_syndrome_eq_zero ((syndrome_xor_of_mem hc e).trans hy)
    refine ⟨hdata, fun heq => seqSlice_ne_zero_of_mem (syndrome_eq_zero_iff.1 hy) hne ?_⟩
    rw [hdata, seqSlice_xor] at heq
    exact (BitVec.xor_right_inj _).1 (heq.trans BitVec.xor_zero.symm)
  · exact ⟨correct v, correct_mem v, weight_correct_xor_le v, rfl, fun _ hb hle => eq_correct_of_weight_le_one hb hle⟩

/-- Settles O44, from the laws of the syndrome and of correction; that the syndromes are equally frequent by evaluating the
128 words. -/
theorem hammingCodeLaws : Obligations.HammingCodeLaws := by
  refine ⟨matvec_matH_eq_zero_iff, fun d => ?_,
    fun v => ⟨correct_mem v, weight_correct_xor_le v, fun _ hb hle => eq_correct_of_weight_le_one hb hle⟩,
    fun d j hj => ?_, by decide⟩
  · rw [hammingDecode_of_mem (hammingEncode_mem d), seqSlice_hammingEncode]
  · rw [hammingDecode_xor_unitAt (hammingEncode_mem d) hj, seqSlice_hammingEncode]

end Sys2Proof.Machine

/-! PROOFS. The layout of frames and codewords (43_composer.md rules R61 and R63): six slices end to end, each read back from the
concatenation, which they determine; so a composed operation is known from what it does to each group or block. -/
namespace Sys2Proof.Machine

/-! ### Slices of a concatenation -/

theorem seqSlice_self {n : Nat} (v : BitVec n) : seqSlice v 0 n = v := by simp [seqSlice]

theorem seqSlice_append_left {m n i len : Nat} (h : i + len ≤ m) (a : BitVec m) (b : BitVec n) :
    seqSlice (a ++ b) i len = seqSlice a i len := by
  rw [seqSlice, BitVec.extractLsb'_append_eq_of_le (by omega), seqSlice]
  congr 1
  omega

theorem seqSlice_append_right {m n i : Nat} (h : i = m) (a : BitVec m) (b : BitVec n) : seqSlice (a ++ b) i n = b := by
  have hstart : m + n - i - n = 0 := by omega
  rw [seqSlice, hstart, BitVec.extractLsb'_append_eq_right]

/-- Each of six parts of one width is read back from their concatenation. -/
theorem seqSlice_append_six {w k : Nat} (hk : k < 6) (g : Nat → BitVec w) :
    seqSlice (g 0 ++ g 1 ++ g 2 ++ g 3 ++ g 4 ++ g 5) (w * k) w = g k := by
  interval_cases k <;> simp (disch := omega) only [seqSlice_append_left, seqSlice_append_right, mul_zero, seqSlice_self]

/-- A vector is determined by its six slices, for element i stands in slice i / w. -/
theorem eq_of_seqSlice_eq {w : Nat} (hw : 0 < w) {u v : BitVec (w * 6)}
    (h : ∀ k, k < 6 → seqSlice u (w * k) w = seqSlice v (w * k) w) : u = v := by
  refine BitVec.eq_of_getMsbD_eq fun i hi => ?_
  have hk : i / w < 6 := Nat.div_lt_of_lt_mul hi
  have hfits : w * (i / w) + w ≤ w * 6 := Nat.mul_le_mul_left w hk
  have hbit := congrArg (fun s => s.getMsbD (i % w)) (h _ hk)
  simpa only [getMsbD_seqSlice _ _ _ _ hfits, Nat.mod_lt i hw, decide_true, Bool.true_and, Nat.div_add_mod] using hbit

/-! ### Groups of a frame -/

theorem getMsbD_frameGroup {k j : Nat} (hk : k < 6) (hj : j < 4) (f : Frame) :
    (frameGroup f k).getMsbD j = f.getMsbD (4 * k + j) := by
  rw [frameGroup, getMsbD_seqSlice _ _ _ _ (by omega), decide_eq_true hj, Bool.true_and]

theorem frameGroup_xor (f g : Frame) (k : Nat) : frameGroup (f ^^^ g) k = frameGroup f k ^^^ frameGroup g k :=
  seqSlice_xor f g _ _

theorem frameGroup_concatGroups {k : Nat} (hk : k < 6) (g : Nat → DataGroup) : frameGroup (concatGroups g) k = g k :=
  seqSlice_append_six hk g

theorem frame_ext {f g : Frame} (h : ∀ k, k < 6 → frameGroup f k = frameGroup g k) : f = g :=
  eq_of_seqSlice_eq (w := 4) (by decide) h

theorem concatGroups_frameGroup (f : Frame) : concatGroups (frameGroup f) = f :=
  frame_ext fun _ hk => frameGroup_concatGroups hk _

/-! ### Blocks of a codeword -/

theorem getMsbD_cwBlock {k j : Nat} (hk : k < 6) (hj : j < 7) (cw : Codeword) :
    (cwBlock cw k).getMsbD j = cw.getMsbD (7 * k + j) := by
  rw [cwBlock, getMsbD_seqSlice _ _ _ _ (by omega), decide_eq_true hj, Bool.true_and]

theorem cwBlock_xor (u v : Codeword) (k : Nat) : cwBlock (u ^^^ v) k = cwBlock u k ^^^ cwBlock v k :=
  seqSlice_xor u v _ _

theorem cwBlock_concatBlocks {k : Nat} (hk : k < 6) (b : Nat → Block) : cwBlock (concatBlocks b) k = b k :=
  seqSlice_append_six hk b

theorem codeword_ext {u v : Codeword} (h : ∀ k, k < 6 → cwBlock u k = cwBlock v k) : u = v :=
  eq_of_seqSlice_eq (w := 7) (by decide) h

theorem concatBlocks_cwBlock (cw : Codeword) : concatBlocks (cwBlock cw) = cw :=
  codeword_ext fun _ hk => cwBlock_concatBlocks hk _

/-! ### Block k carries group k -/

theorem cwBlock_encodeFrame {k : Nat} (hk : k < 6) (f : Frame) :
    cwBlock (encodeFrame f) k = hammingEncode (frameGroup f k) :=
  cwBlock_concatBlocks hk _

theorem frameGroup_reassemble {k : Nat} (hk : k < 6) (cw : Codeword) :
    frameGroup (reassemble cw) k = hammingData (cwBlock cw k) :=
  frameGroup_concatGroups hk _

/-- The data bits of a block are its group's own (R54). -/
theorem getMsbD_hammingEncode {j : Nat} (hj : j < 4) (d : DataGroup) : (hammingEncode d).getMsbD j = d.getMsbD j := by
  have hslice := getMsbD_seqSlice (hammingEncode d) 0 4 j (by decide)
  simpa only [seqSlice_hammingEncode, decide_eq_true hj, Bool.true_and, Nat.zero_add] using hslice.symm

/-- The frame is read off the codeword without decoding. -/
theorem getMsbD_encodeFrame {k j : Nat} (hk : k < 6) (hj : j < 4) (f : Frame) :
    (encodeFrame f).getMsbD (7 * k + j) = f.getMsbD (4 * k + j) := by
  rw [← getMsbD_cwBlock hk (by omega), cwBlock_encodeFrame hk, getMsbD_hammingEncode hj, getMsbD_frameGroup hk hj]

/-- The first sixteen elements of a frame are the payload (R61). -/
theorem getMsbD_payload_append {i : Nat} (hi : i < 16) (p : Payload) (r : Remainder) :
    (p ++ r : Frame).getMsbD i = p.getMsbD i := by
  rw [BitVec.getMsbD_append, if_neg hi.not_ge]

/-! ### The statements -/

/-- Settles O45: the groups are slices, and a frame is the concatenation of its groups. -/
theorem framePartition : Obligations.FramePartition := by
  refine ⟨fun f k j hk hj => ⟨getMsbD_frameGroup hk hj f, ?_⟩, fun p r k j hk hj => ?_, fun p r => ⟨?_, ?_⟩,
    concatGroups_frameGroup, fun g k hk => frameGroup_concatGroups hk g⟩
  · have hstart : 24 - 4 * k - 4 = 20 - 4 * k := by omega
    rw [frameGroup, seqSlice, BitVec.getLsbD_extractLsb', decide_eq_true hj, Bool.true_and, hstart]
  · rw [getMsbD_frameGroup (by omega) hj, getMsbD_payload_append (by omega)]
  · exact BitVec.extractLsb'_append_eq_of_add_le (by decide)
  · exact BitVec.extractLsb'_append_eq_of_add_le (by decide)

/-- Settles O46: the blocks are slices, and block k of an encoded frame is that of its group k. -/
theorem codewordLayout : Obligations.CodewordLayout := by
  refine ⟨fun cw k j hk hj => ⟨getMsbD_cwBlock hk hj cw, ?_⟩, concatBlocks_cwBlock, fun f k j hk hj => ?_,
    fun f k j hk hj => getMsbD_encodeFrame hk hj f⟩
  · have hstart : 42 - 7 * k - 7 = 35 - 7 * k := by omega
    rw [cwBlock, seqSlice, BitVec.getLsbD_extractLsb', decide_eq_true hj, Bool.true_and, hstart]
  · rw [← getMsbD_cwBlock hk hj, cwBlock_encodeFrame hk]

end Sys2Proof.Machine

/-! PROOFS. What DEC42 does to a codeword with an error (43_composer.md rules R64, R66 and R67). Each block is decoded up to its
error alone, so an error e on the codeword leaves the error `reassemble e` in the frame, and the CRC run over `reassemble e`
decides. -/
namespace Sys2Proof.Machine

/-! ### The outcome is the error's (R67 (a)) -/

/-- Block by block, the data is wrong by what HDEC makes of the error. -/
theorem reassemble_encodeFrame_xor (f : Frame) (e : Codeword) : reassemble (encodeFrame f ^^^ e) = f ^^^ reassemble e :=
  frame_ext fun k hk => by
    rw [frameGroup_reassemble hk, cwBlock_xor, cwBlock_encodeFrame hk, hammingData_xor_of_mem (hammingEncode_mem _),
      seqSlice_hammingEncode, frameGroup_xor, frameGroup_reassemble hk]

theorem reassemble_encode16_xor (p : Payload) (e : Codeword) :
    reassemble (encode16 p ^^^ e) = (p ++ crcRun p : Frame) ^^^ reassemble e :=
  reassemble_encodeFrame_xor _ e

theorem framePayload_append (p : Payload) (r : Remainder) : framePayload (p ++ r) = p := by
  rw [framePayload, seqSlice_append_left (by decide), seqSlice_self]

theorem decode42_encode16_xor (p : Payload) (e : Codeword) :
    decode42 (encode16 p ^^^ e) =
      if crcRun (reassemble e) = 0x00#8 then .ok (p ^^^ framePayload (reassemble e)) else .err .uncorrectableError := by
  have hvalid := (crcRun_append_eq_zero_iff p (crcRun p)).2 rfl
  have hpayload : framePayload ((p ++ crcRun p : Frame) ^^^ reassemble e) = p ^^^ framePayload (reassemble e) := by
    rw [framePayload, seqSlice_xor, ← framePayload, framePayload_append, framePayload]
  simp only [decode42, crcGate, reassemble_encode16_xor, crcRun_xor_eq_zero_iff hvalid, hpayload]

theorem decode42_encode16_xor_eq_err_iff {p : Payload} {e : Codeword} :
    decode42 (encode16 p ^^^ e) = .err .uncorrectableError ↔ crcRun (reassemble e) ≠ 0x00#8 := by
  rw [decode42_encode16_xor]
  split <;> simp [*]

/-- An error that leaves none in the frame is corrected. -/
theorem decode42_encode16_xor_of_reassemble_eq_zero {e : Codeword} (h : reassemble e = 0#24) (p : Payload) :
    decode42 (encode16 p ^^^ e) = .ok p := by
  rw [decode42_encode16_xor, h, if_pos (crcRun_zero 24), framePayload, seqSlice_zero, BitVec.xor_zero]

/-! ### The weight of an error and of its blocks -/

theorem weight_append {m n : Nat} (a : BitVec m) (b : BitVec n) : weight (a ++ b) = weight a + weight b := by
  rw [weight, seqBits_append, List.count_append, weight, weight]

theorem weight_eq_sum_cwBlock (e : Codeword) : weight e = ∑ k ∈ Finset.range 6, weight (cwBlock e k) := by
  conv_lhs => rw [← concatBlocks_cwBlock e]
  simp only [concatBlocks, weight_append, Finset.sum_range_succ, Finset.sum_range_zero, zero_add]

@[simp] theorem cwBlock_zero (k : Nat) : cwBlock 0#42 k = 0#7 := seqSlice_zero ..

/-- Any of the six blocks together weigh at most as much as the error. -/
theorem sum_weight_cwBlock_le {blocks : Finset Nat} (h : blocks ⊆ Finset.range 6) (e : Codeword) :
    ∑ k ∈ blocks, weight (cwBlock e k) ≤ weight e :=
  (Finset.sum_le_sum_of_subset h).trans_eq (weight_eq_sum_cwBlock e).symm

theorem weight_cwBlock_le {k : Nat} (hk : k < 6) (e : Codeword) : weight (cwBlock e k) ≤ weight e := by
  simpa using sum_weight_cwBlock_le (Finset.singleton_subset_iff.2 (Finset.mem_range.2 hk)) e

/-! ### The error left in a group -/

/-- No data bit of an error is left exactly when the block has at most one flip: the corrected error is a block near it. -/
theorem hammingData_eq_zero_iff {e : Block} : hammingData e = 0#4 ↔ weight e ≤ 1 := by
  constructor
  · intro h
    have hcorrect : correct e = 0#7 := by rw [← hammingEncode_hammingData, h, hammingEncode_zero]
    simpa only [hcorrect, BitVec.zero_xor] using weight_correct_xor_le e
  · intro h
    rw [hammingData, correct_eq_zero_of_weight_le_one h, seqSlice_zero]

theorem frameGroup_reassemble_eq_zero_iff {k : Nat} (hk : k < 6) {e : Codeword} :
    frameGroup (reassemble e) k = 0#4 ↔ weight (cwBlock e k) ≤ 1 := by
  rw [frameGroup_reassemble hk, hammingData_eq_zero_iff]

@[simp] theorem frameGroup_zero (k : Nat) : frameGroup 0#24 k = 0#4 := seqSlice_zero ..

/-- With at most one flip in every block, every group is restored (R66 (c)). -/
theorem reassemble_eq_zero {e : Codeword} (h : ∀ k, k < 6 → weight (cwBlock e k) ≤ 1) : reassemble e = 0#24 :=
  frame_ext fun k hk => ((frameGroup_reassemble_eq_zero_iff hk).2 (h k hk)).trans (frameGroup_zero k).symm

/-! ### One wrong group -/

/-- A frame error within one group is a burst of at most four bits, which is no valid frame (R50 (d)). -/
theorem crcRun_ne_zero_of_one_group {f : Frame} {k : Nat} (hne : frameGroup f k ≠ 0#4)
    (hothers : ∀ j, j < 6 → j ≠ k → frameGroup f j = 0#4) : crcRun f ≠ 0x00#8 := by
  refine crcRun_ne_zero_of_burst (i := 4 * k) (fun hzero => hne (hzero ▸ frameGroup_zero k)) fun i hone => ?_
  have hi : i < 24 := by
    by_contra hge
    simp [BitVec.getMsbD, hge] at hone
  have hgroup : i / 4 = k := by
    by_contra hother
    have hbit := getMsbD_frameGroup (k := i / 4) (j := i % 4) (by omega) (by omega) f
    rw [hothers _ (by omega) hother, Nat.div_add_mod, hone] at hbit
    simp at hbit
  omega

/-- R67 (b), with single errors allowed in the other blocks: they are corrected, and the one wrong group is rejected. -/
theorem decode42_of_one_bad_block {e : Codeword} {k : Nat} (hk : k < 6) (hbad : 2 ≤ weight (cwBlock e k))
    (hothers : ∀ j, j < 6 → j ≠ k → weight (cwBlock e j) ≤ 1) (p : Payload) :
    decode42 (encode16 p ^^^ e) = .err .uncorrectableError :=
  decode42_encode16_xor_eq_err_iff.2 <| crcRun_ne_zero_of_one_group
    ((frameGroup_reassemble_eq_zero_iff hk).not.2 (Nat.not_le.2 hbad))
    fun j hj hne => (frameGroup_reassemble_eq_zero_iff hj).2 (hothers j hj hne)

/-! ### Two wrong groups of a double error each -/

/-- The frame with the data d in group k and zeros elsewhere. -/
def groupFrame (k : Nat) (d : DataGroup) : Frame := concatGroups fun j => if j = k then d else 0#4

theorem frameGroup_groupFrame {j : Nat} (hj : j < 6) (k : Nat) (d : DataGroup) :
    frameGroup (groupFrame k d) j = if j = k then d else 0#4 :=
  frameGroup_concatGroups hj _

/-- A frame with two nonzero groups is the XOR of the frames of each. -/
theorem eq_groupFrame_xor {f : Frame} {k l : Nat} (hkl : k ≠ l)
    (hothers : ∀ j, j < 6 → j ≠ k → j ≠ l → frameGroup f j = 0#4) :
    f = groupFrame k (frameGroup f k) ^^^ groupFrame l (frameGroup f l) := by
  refine frame_ext fun j hj => ?_
  rw [frameGroup_xor, frameGroup_groupFrame hj, frameGroup_groupFrame hj]
  obtain rfl | hjk := eq_or_ne j k
  · rw [if_pos rfl, if_neg hkl, BitVec.xor_zero]
  obtain rfl | hjl := eq_or_ne j l
  · rw [if_neg hjk, if_pos rfl, BitVec.zero_xor]
  · rw [if_neg hjk, if_neg hjl, BitVec.xor_zero, hothers j hj hjk hjl]

/-- The wrong data a double error leaves: the data of the seven blocks of weight 3. -/
def doubleErrorData : List DataGroup := [0x1#4, 0x3#4, 0x4#4, 0x6#4, 0x8#4, 0xA#4, 0xD#4]

/-- Over the sixteen blocks. -/
theorem seqSlice_mem_doubleErrorData : ∀ c ∈ hammingBlocks, weight c = 3 → seqSlice c 0 4 ∈ doubleErrorData := by decide

theorem hammingData_mem_doubleErrorData {e : Block} (h : weight e = 2) : hammingData e ∈ doubleErrorData := by
  obtain ⟨_, -, -, -, -, hthree⟩ := exists_third_flip_of_weight_two h
  exact seqSlice_mem_doubleErrorData _ (correct_mem e) hthree

/-- The group positions with the wrong data of a double error. -/
def doubleErrors : List (Nat × DataGroup) := List.range 6 ×ˢ doubleErrorData

/-- The wrong data of a double error leaves a remainder that tells its position, by evaluating the 42 cases: R67 (c) rests on it.
Of arbitrary wrong groups it is false (R67 (e): 1 in group 3 and 7 in group 5 share one). -/
theorem nodup_remainders_doubleErrors : (doubleErrors.map fun x => crcRun (groupFrame x.1 x.2)).Nodup := by decide +kernel

/-- R67 (c), with single errors allowed in the other blocks. -/
theorem decode42_of_two_double_errors {e : Codeword} {k l : Nat} (hk : k < 6) (hl : l < 6) (hkl : k ≠ l)
    (htwok : weight (cwBlock e k) = 2) (htwol : weight (cwBlock e l) = 2)
    (hothers : ∀ j, j < 6 → j ≠ k → j ≠ l → weight (cwBlock e j) ≤ 1) (p : Payload) :
    decode42 (encode16 p ^^^ e) = .err .uncorrectableError := by
  have hmem : ∀ j, j < 6 → weight (cwBlock e j) = 2 → (j, frameGroup (reassemble e) j) ∈ doubleErrors := fun j hj htwo => by
    rw [frameGroup_reassemble hj]
    exact List.pair_mem_product.2 ⟨List.mem_range.2 hj, hammingData_mem_doubleErrorData htwo⟩
  refine decode42_encode16_xor_eq_err_iff.2 fun hrun => hkl ?_
  rw [eq_groupFrame_xor hkl fun j hj hjk hjl => (frameGroup_reassemble_eq_zero_iff hj).2 (hothers j hj hjk hjl),
    crcRun_xor, BitVec.xor_eq_zero_iff] at hrun
  have hpair := List.inj_on_of_nodup_map nodup_remainders_doubleErrors (hmem k hk htwok) (hmem l hl htwol) hrun
  exact congrArg Prod.fst hpair

/-! ### Up to four flips -/

/-- Four flips make at most two blocks bad, and then the two have two each. -/
theorem bad_blocks_of_weight_le_four {e : Codeword} (h : weight e ≤ 4) {k l : Nat} (hk : k < 6) (hl : l < 6) (hkl : k ≠ l)
    (hbadk : 2 ≤ weight (cwBlock e k)) (hbadl : 2 ≤ weight (cwBlock e l)) :
    weight (cwBlock e k) = 2 ∧ weight (cwBlock e l) = 2 ∧ ∀ j, j < 6 → j ≠ k → j ≠ l → weight (cwBlock e j) ≤ 1 := by
  have hpair := sum_weight_cwBlock_le (blocks := {k, l}) (by simp [Finset.insert_subset_iff, hk, hl]) e
  rw [Finset.sum_pair hkl] at hpair
  refine ⟨by omega, by omega, fun j hj hjk hjl => ?_⟩
  have htriple := sum_weight_cwBlock_le (blocks := {j, k, l}) (by simp [Finset.insert_subset_iff, hj, hk, hl]) e
  rw [Finset.sum_insert (by simp [hjk, hjl]), Finset.sum_pair hkl] at htriple
  omega

/-! ### The statements -/

/-- Settles O54: the frame error is what DEC42 reassembles from the error. -/
theorem outcomeDependsOnErrorAlone : Obligations.OutcomeDependsOnErrorAlone := fun e =>
  ⟨reassemble e, fun p => ⟨reassemble_encode16_xor p e, decode42_encode16_xor p e⟩⟩

/-- Settles O52: every group is restored, so no error is left in the frame. -/
theorem oneErrorPerBlockIsCorrected : Obligations.OneErrorPerBlockIsCorrected := fun p _ h =>
  decode42_encode16_xor_of_reassemble_eq_zero (reassemble_eq_zero h) p

/-- Settles O51, as the case of no error. -/
theorem composedRoundTrip : Obligations.ComposedRoundTrip := fun p => by
  simpa using oneErrorPerBlockIsCorrected p 0#42 fun k _ => by simp

/-- Settles O53: the clean blocks are those of at most one error. -/
theorem errorsInOneBlockAreRejected : Obligations.ErrorsInOneBlockAreRejected := fun p _ _ hk hbad hothers =>
  decode42_of_one_bad_block hk hbad (fun j hj hne => by simp [hothers j hj hne]) p

/-- Settles O55: the two wrong groups leave different remainders. -/
theorem twoDoubleErrorsAreRejected : Obligations.TwoDoubleErrorsAreRejected :=
  fun p _ _ _ hk hl hkl htwok htwol hothers =>
    decode42_of_two_double_errors hk hl hkl htwok htwol (fun j hj hjk hjl => by simp [hothers j hj hjk hjl]) p

/-- Settles O56 by the number of blocks with two or more flips: none, one, or two. -/
theorem wrongPayloadNeedsFiveFlips : Obligations.WrongPayloadNeedsFiveFlips := by
  refine ⟨fun p e hfour => ?_, by decide, by decide +kernel⟩
  by_cases hgood : ∀ k, k < 6 → weight (cwBlock e k) ≤ 1
  · exact .inl (oneErrorPerBlockIsCorrected p e hgood)
  push Not at hgood
  obtain ⟨k, hk, hbadk⟩ := hgood
  right
  by_cases hone : ∀ j, j < 6 → j ≠ k → weight (cwBlock e j) ≤ 1
  · exact decode42_of_one_bad_block hk hbadk hone p
  push Not at hone
  obtain ⟨l, hl, hlk, hbadl⟩ := hone
  obtain ⟨htwok, htwol, hothers⟩ := bad_blocks_of_weight_le_four hfour hk hl hlk.symm hbadk hbadl
  exact decode42_of_two_double_errors hk hl hlk.symm htwok htwol hothers p

end Sys2Proof.Machine

/-! PROOFS. ENC16 and DEC42 as operations (43_composer.md rules R62 and R64): what they answer to a request, with the examples of
the spec. -/
namespace Sys2Proof.Machine

/-- The error response carries no bit of the frame (R64). -/
theorem response_crcGate (f : Frame) (r : Remainder) :
    response (crcGate f r) = if r = 0x00#8 then response (.ok (seqSlice f 0 16)) else 0x40000000000#44 := by
  rw [crcGate, apply_ite response, response_uncorrectableError, framePayload]

/-- A flipped bit is a single error in its block and none in the others, so no group is wrong. -/
theorem reassemble_unitAt {i : Nat} (hi : i < 42) : reassemble (unitAt 42 i) = 0#24 :=
  reassemble_eq_zero fun _ hk => (weight_cwBlock_le hk _).trans_eq (weight_unitAt hi)

theorem reassemble_encode16_xor_unitAt {i : Nat} (hi : i < 42) (p : Payload) :
    reassemble (encode16 p ^^^ unitAt 42 i) = (p ++ crcRun p : Frame) := by
  rw [reassemble_encode16_xor, reassemble_unitAt hi, BitVec.xor_zero]

/-- The step at a DEC42 request, from what the word reassembles to and the remainder of that frame. -/
theorem step_dec42 {s : State} {cw : Codeword} {f : Frame} {r : Remainder} (hs : s.req = some (requestWord 0x9#4 cw))
    (hf : reassemble cw = f) (hr : crcRun f = r) :
    step s = .next { s with req := none, crcR := r, resp := some (response (crcGate f r)) } := by
  have hd : decode (requestWord 0x9#4 cw) = .ok (.dec42 cw) := decode_requestWord (i := .dec42 cw) fun _ _ => rfl
  rw [step_eq_of_decode_ok hs hd, crcAfter, respondInstr, decode42, hf, hr]

/-! ### The statements -/

/-- Settles O47: the operand is read from `din[15:0]`, and block k is HENC's of group k. -/
theorem enc16EncodesPayload : Obligations.Enc16EncodesPayload := by
  refine ⟨fun din => decode_requestWord (i := .enc16 _) fun j hj => getLsbD_extractLsb'_onBus (operandWidth_le _) hj din,
    fun p s => exec_eq (.enc16 p) s, fun p k hk => cwBlock_encodeFrame hk _, by decide +kernel, fun p k i hk hi => ?_,
    fun s hs => ?_⟩
  · rw [encode16, getMsbD_encodeFrame (by omega) hi, getMsbD_payload_append (by omega)]
  · have hresp : respondInstr (.enc16 0xA5C3#16) = 0x292DC6705F4#44 := by decide +kernel
    rw [step_eq_of_decode_ok (i := .enc16 0xA5C3#16) hs (by decide), hresp, crcAfter, crcRun_A5C3]

/-- Settles O49: for any received word the gate decides on the reassembled frame; the round trip and the parity errors are cases
of the error that leaves none in the frame, and failure depends on the error alone. -/
theorem dec42DecodesOrFails : Obligations.Dec42DecodesOrFails := by
  have hvalid : crcRun 0xA5C31E#24 = 0x00#8 := by decide +kernel
  refine ⟨fun din => decode_requestWord (i := .dec42 din) fun _ _ => rfl, fun cw s => ?_,
    fun cw k hk => frameGroup_reassemble hk cw, by decide +kernel, composedRoundTrip,
    fun p k j hk _ hj => reassemble_encode16_xor_unitAt (by omega) p, by decide +kernel, by decide +kernel,
    fun _ _ _ => decode42_encode16_xor_eq_err_iff.trans decode42_encode16_xor_eq_err_iff.symm,
    fun s hs => ?_, fun s hs => ?_, fun s hs => ?_⟩
  · rw [exec_eq, respondInstr, decode42, response_crcGate, crcAfter]
  · exact step_dec42 (cw := 0x292DC6705F4#42) hs (by decide) hvalid
  · exact step_dec42 (cw := 0x293DC6705F4#42) hs (by decide) hvalid
  · exact step_dec42 (cw := 0x292D06705F4#42) hs (f := 0xA5131E#24) (by decide) (by decide +kernel)

end Sys2Proof.Machine

/-! PROOFS. Errors (60_exceptions.md rules R70 to R77): which requests are answered with an error, what reporting one changes,
and that it leaves nothing behind. -/
namespace Sys2Proof.Machine

/-! ### The requests answered with an error -/

/-- The word asks for a DEC42 whose reassembled frame leaves the CRC register nonzero (R71). -/
def FailsGate (w : RequestWord) : Prop := opField w = 0x9#4 ∧ crcRun (reassemble (dinField w)) ≠ 0x00#8

/-- DEC42 has no ignored bits: its operand is the whole of `din`. -/
theorem decode_of_opField_nine {w : RequestWord} (hop : opField w = 0x9#4) : decode w = .ok (.dec42 (dinField w)) :=
  decode_of_carries ⟨hop, fun _ hj => (getLsbD_dinField hj w).symm⟩

/-- The gate decides the response to a DEC42 request (R64). -/
theorem respond_of_opField_nine {w : RequestWord} (hop : opField w = 0x9#4) :
    respond w = response (crcGate (reassemble (dinField w)) (crcRun (reassemble (dinField w)))) := by
  rw [respond_of_decode_ok (decode_of_opField_nine hop), respondInstr, decode42]

theorem statusField_respond_of_gate_passed {w : RequestWord} (hop : opField w = 0x9#4)
    (hcrc : crcRun (reassemble (dinField w)) = 0x00#8) : statusField (respond w) = 0#2 := by
  rw [respond_of_opField_nine hop, response_crcGate, if_pos hcrc, statusField_response, statusOf]

theorem respond_of_failsGate {w : RequestWord} (hw : FailsGate w) : respond w = 0x40000000000#44 := by
  obtain ⟨hop, hcrc⟩ := hw
  rw [respond_of_opField_nine hop, response_crcGate, if_neg hcrc]

/-- A failed gate writes R by the run over the frame, as every DEC42 does, and reports the error. -/
theorem step_of_failsGate {s : State} {w : RequestWord} (hs : s.req = some w) (hw : FailsGate w) :
    step s = .next { s with req := none, crcR := crcRun (reassemble (dinField w)), resp := some 0x40000000000#44 } := by
  have hd : decode w = .ok (.dec42 (dinField w)) := decode_of_opField_nine hw.1
  rw [step_eq_of_decode_ok hs hd, ← respond_of_decode_ok hd, respond_of_failsGate hw, crcAfter]

/-- The only requests answered with an error: a failed gate and a reserved `op` (R71, R73). -/
theorem respond_error_cases {w : RequestWord} (herr : statusField (respond w) ≠ 0#2) :
    FailsGate w ∧ respond w = 0x40000000000#44 ∨ IsReserved (opField w) ∧ respond w = 0x80000000000#44 := by
  obtain ⟨-, hok | ⟨⟨cw, hdec⟩, hresp⟩⟩ | hres := respond_cases w
  · exact absurd hok herr
  · obtain ⟨hop, -⟩ := decode_eq_ok_iff.1 hdec
    exact .inl ⟨⟨hop, fun hcrc => herr (statusField_respond_of_gate_passed hop hcrc)⟩, hresp⟩
  · exact .inr hres

theorem statusField_respond_eq_one_iff {w : RequestWord} : statusField (respond w) = 1#2 ↔ FailsGate w := by
  constructor
  · intro hone
    obtain ⟨hw, -⟩ | ⟨-, hresp⟩ := respond_error_cases (w := w) (by rw [hone]; decide)
    · exact hw
    · rw [hresp] at hone
      exact absurd hone (by decide)
  · intro hw
    rw [respond_of_failsGate hw]
    decide

/-! ### What a step or a service that answered has done -/

/-- A step is a function, so the state it answers at a held request is the one of `step_of_request`. -/
theorem step_next_of_request {s t : State} {w : RequestWord} (hs : s.req = some w) (hstep : step s = .next t) :
    t.req = none ∧ t.resp = some (respond w) := by
  obtain ⟨t', hstep', hidle, hresp⟩ := step_of_request hs
  cases hstep'.symm.trans hstep
  exact ⟨hidle, hresp⟩

/-- A request that was served, with an error or not, leaves an idle instance: a busy one serves none. -/
theorem idle_of_serve {s t : State} {w : RequestWord} {r : ResponseWord} (h : serve w s = some (r, t)) : t.req = none := by
  cases hs : s.req with
  | none =>
    obtain ⟨t', hserve, hidle⟩ := serve_of_idle w hs
    cases hserve.symm.trans h
    exact hidle
  | some v => simp [serve, present, hs] at h

/-! ### The statements -/

/-- Settles O9: an error, like any response, leaves an idle instance, and what an idle instance answers depends on the request
alone. -/
theorem errorLeavesNothingBehind : Obligations.ErrorLeavesNothingBehind := by
  intro s t w w' r h _
  obtain ⟨t', hserve, -⟩ := serve_of_idle w' (idle_of_serve h)
  obtain ⟨u, hreset, -⟩ := serve_of_idle w' reset_req
  rw [hserve, hreset]
  exact ⟨rfl, rfl⟩

/-- Settles O57: the response of the step is the pure one, whose status is 1 exactly on a failed gate. -/
theorem uncorrectableErrorExactlyOnFailedGate : Obligations.UncorrectableErrorExactlyOnFailedGate := by
  intro s t w r hs hstep hr
  obtain ⟨-, hresp⟩ := step_next_of_request hs hstep
  cases hresp.symm.trans hr
  exact statusField_respond_eq_one_iff

/-- Settles O58, for each of the two requests answered with an error from the equation of its step. -/
theorem errorResponseCarriesNoData : Obligations.ErrorResponseCarriesNoData := by
  intro s t w r hs hstep hr herr
  obtain ⟨hidle, hresp⟩ := step_next_of_request hs hstep
  cases hresp.symm.trans hr
  obtain ⟨hw, hword⟩ | ⟨hop, hword⟩ := respond_error_cases herr
  · cases (step_of_failsGate hs hw).symm.trans hstep
    rw [hword]
    exact ⟨by decide, hidle, fun htwo => absurd htwo (by decide), fun _ => rfl⟩
  · cases (step_of_isReserved hs hop).symm.trans hstep
    rw [hword]
    exact ⟨by decide, hidle, fun _ => rfl, fun hone => absurd hone (by decide)⟩

/-- Settles O5, the case of a step without a request. -/
theorem idleStepChangesNothing : Obligations.IdleStepChangesNothing := fun _ => step_of_idle

end Sys2Proof.Machine

/-! PROOFS. Reset and hazards (70_reset_and_hazards.md rules R80, R83 and R85): what reset leaves, that a request is taken by an
idle instance only, and that each one taken is answered. -/
namespace Sys2Proof.Machine

/-! ### Idle and busy instances -/

theorem present_of_busy {s : State} {v : RequestWord} (w : RequestWord) (hs : s.req = some v) :
    present w s = .fault .requestWhileBusy := by
  simp only [present, hs]

/-- Every step leaves an idle instance: one that held a request has answered it, and an idle one has not changed. -/
theorem idle_of_step {s t : State} (hstep : step s = .next t) : t.req = none := by
  cases hs : s.req with
  | none =>
    cases (step_of_idle hs).symm.trans hstep
    exact hs
  | some w => exact (step_next_of_request hs hstep).1

/-! ### The statements -/

/-- Settles O6: the step at a held request answers it, a run takes the bits of its operand one by one, and a step is total. -/
theorem everyRequestIsAnswered : Obligations.EveryRequestIsAnswered := by
  refine ⟨fun s w hs => ?_, fun _ => length_seqBits, exists_step_next⟩
  obtain ⟨t, hstep, hidle, hresp⟩ := step_of_request hs
  exact ⟨t, respond w, hstep, hidle, hresp⟩

/-- Settles O1: the tables and the fields of the reset state by their definitions, and a reset forgets the state it finds. -/
theorem resetLeavesIdleBlock : Obligations.ResetLeavesIdleBlock :=
  ⟨rfl, rfl, rfl, reset_crcR, reset_req, reset_resp, fun _ => rfl⟩

/-- Settles O2: the invariant asks nothing of a port without a response. -/
theorem resetMeetsResponseInvariant : Obligations.ResetMeetsResponseInvariant := by
  simp only [Obligations.ResetMeetsResponseInvariant, State.inv, reset_resp]

/-- Settles O12: an idle instance takes any request and a busy one none, and reset and every step leave an idle instance. -/
theorem requestsAcceptedOnlyWhenIdle : Obligations.RequestsAcceptedOnlyWhenIdle :=
  ⟨fun _ w hs => present_of_idle w hs, fun _ w _ hs => present_of_busy w hs, fun _ _ => idle_of_step, reset_req⟩

end Sys2Proof.Machine
